-- ==== Sys2Proof/Word.lean ====
section
/-! DEFINITION. The widths the spec gives its values (spec/00_scope.md R6, R8, R10). -/

namespace Sys2Proof

/-- `WORD`: every register, both operand buses, the ALU and one cell of program memory are 16 bits
(R6, R10). -/
abbrev Word := BitVec 16

/-- `MPC_WIDTH`: the micro-program counter is 9 bits and holds 0 to 256 (R24). -/
abbrev Mpc := BitVec 9

/-- `MI_WIDTH`: a microinstruction word `W` is 32 bits; the character at line offset `k` is
`W[31-k]` (R9, R90). -/
abbrev MicroWord := BitVec 32

/-- A line as the decoder receives it: a finite sequence of characters with no line terminator
(R131). -/
abbrev Line := List Char

end Sys2Proof
end

