-- ==== Sys2Proof/Config.lean ====
section
/-! DEFINITION. The implementation parameters of spec/00_scope.md R6, fixed during a run. -/

namespace Sys2Proof

/-- The two readings of "the top of memory" that R46 admits for `SP_RESET`; the spec leaves the choice
OPEN (D10). -/
inductive SpTop where
  /-- the address of the last cell, `MEM_SIZE - 1` -/
  | lastWord
  /-- one past the last cell, `MEM_SIZE` -/
  | onePast
  deriving DecidableEq, Repr

/-- The configuration rows of R6. It is a field of the state that no step changes, so a statement over
every state is a statement over every configuration (log 24). -/
structure Config where
  /-- `MEM_SIZE`, number of words of program memory (R61) -/
  memSize : Nat
  /-- `AMASK`, the value at bus code 8 (R173) -/
  amask : Word
  /-- `SMASK`, the value at bus code 9 (R174) -/
  smask : Word
  /-- which of its two readings `SP_RESET` takes (R46) -/
  spTop : SpTop
  deriving DecidableEq, Repr

/-- `1 <= MEM_SIZE <= 32768` (R6, R61; D7). -/
def Config.wf (c : Config) : Bool := decide (1 ≤ c.memSize) && decide (c.memSize ≤ 32768)

/-- `SP_RESET`, the start value of the stack pointer (R46). -/
def Config.spReset (c : Config) : Word :=
  match c.spTop with
  | .lastWord => BitVec.ofNat 16 (c.memSize - 1)
  | .onePast => BitVec.ofNat 16 c.memSize

/-- The reference system: `MEM_SIZE` 4096 and the two mask constants as the source prints them (R6).
DESIGN CHOICE (log 10): `SP_RESET` is the last cell; the spec gives it no default. -/
def Config.reference : Config := ⟨4096, 0x00FF#16, 0x003F#16, .lastWord⟩

/-- `CS_CAP`, the capacity of the control store (R6, R62). -/
def csCap : Nat := 256

end Sys2Proof
end

