-- ==== Sys2Proof/Syntax.lean ====
section
/-! DEFINITION. Syntax of the microinstruction format of spec/30_encoding.md: the field types, the
decoder's record of thirteen fields, and `Instr`, one constructor per row of spec/opcode_table.json. -/

namespace Sys2Proof

/-- The sixteen bus codes (spec/42_register_bus.md R166): five architectural registers, five constants,
six scratch registers. -/
inductive BusCode where
  | pc | ac | sp | ir | tir
  | zero | one | minus1 | amask | smask
  | s0 | s1 | s2 | s3 | s4 | s5
  deriving DecidableEq, Repr

/-- Values of `COND` (R99). -/
inductive Cond where
  | never | jn | jz | jmp
  deriving DecidableEq, Repr

/-- Values of `ALU` (R100). -/
inductive AluOp where
  | add | and | pass | inv
  deriving DecidableEq, Repr

/-- The three legal values of `SH` (R100, R205). -/
inductive ShiftMode where
  | none | rsh | lsh
  deriving DecidableEq, Repr

/-- The memory action `RD` and `WR` select in a datapath microinstruction (R98). -/
inductive MemReq where
  | none | rd | wr
  deriving DecidableEq, Repr

/-- The nine fields that are free in every datapath row (R111). -/
structure Fields where
  /-- 1: the A operand comes from `mbr` (R91) -/
  amux : Bool
  cond : Cond
  /-- latch the shifter output into `mbr` (R242) -/
  mbr : Bool
  /-- latch the B bus into `mar` (R240) -/
  mar : Bool
  /-- enable the C-bus write (R181) -/
  enc : Bool
  c : BusCode
  b : BusCode
  a : BusCode
  /-- the branch target (R94) -/
  addr : BitVec 8
  deriving DecidableEq, Repr

/-- The decoder's record: the thirteen fields of R91 as unsigned numbers of their widths (R136). -/
structure Record where
  amux : BitVec 1
  cond : BitVec 2
  alu : BitVec 2
  sh : BitVec 2
  mbr : BitVec 1
  mar : BitVec 1
  rd : BitVec 1
  wr : BitVec 1
  enc : BitVec 1
  c : BitVec 4
  b : BitVec 4
  a : BitVec 4
  addr : BitVec 8
  deriving DecidableEq, Repr

/-- The microinstructions, one constructor per row of the opcode table (R111), in its order. A HALT word
keeps its ignored fields, since the decoder extracts them all (R134); an ILLEGAL word (`SH` = 3) spells
no microinstruction (R101) and its constructor exists so that every word has a row: the decoder never
answers it. -/
inductive Instr where
  | illegal (alu : AluOp) (rd wr : Bool) (f : Fields)
  | halt (alu : AluOp) (f : Fields)
  | haltSh1 (alu : AluOp) (f : Fields)
  | haltSh2 (alu : AluOp) (f : Fields)
  | add (f : Fields)
  | addRd (f : Fields)
  | addWr (f : Fields)
  | addRsh (f : Fields)
  | addRshRd (f : Fields)
  | addRshWr (f : Fields)
  | addLsh (f : Fields)
  | addLshRd (f : Fields)
  | addLshWr (f : Fields)
  | and (f : Fields)
  | andRd (f : Fields)
  | andWr (f : Fields)
  | andRsh (f : Fields)
  | andRshRd (f : Fields)
  | andRshWr (f : Fields)
  | andLsh (f : Fields)
  | andLshRd (f : Fields)
  | andLshWr (f : Fields)
  | pass (f : Fields)
  | passRd (f : Fields)
  | passWr (f : Fields)
  | passRsh (f : Fields)
  | passRshRd (f : Fields)
  | passRshWr (f : Fields)
  | passLsh (f : Fields)
  | passLshRd (f : Fields)
  | passLshWr (f : Fields)
  | inv (f : Fields)
  | invRd (f : Fields)
  | invWr (f : Fields)
  | invRsh (f : Fields)
  | invRshRd (f : Fields)
  | invRshWr (f : Fields)
  | invLsh (f : Fields)
  | invLshRd (f : Fields)
  | invLshWr (f : Fields)
  deriving DecidableEq, Repr

/-- A row of spec/opcode_table.json: the words `W` with `W &&& mask = value` (R111). -/
structure Row where
  mnemonic : String
  value : MicroWord
  mask : MicroWord
  deriving DecidableEq, Repr

/-- The grounds on which the decoder refuses a line (R138). -/
inductive DecodeError where
  | length | nonBinary | range
  deriving DecidableEq, Repr

/-- The ways a control-store load fails, with what R264 records: the number of lines, or the index of the
first failing line and its ground (R262). -/
inductive LoadError where
  | capacity (lines : Nat)
  | line (i : Nat) (reason : DecodeError)
  deriving DecidableEq, Repr

end Sys2Proof
end

