-- ==== Sys2Proof/WellFormed.lean ====
section
/-! DEFINITION. Well-formedness: the structural checks of spec/40_decoder.md R135 and the capacity of
spec/41_control_store.md R151. -/

namespace Sys2Proof

/-- R135's range check on the extracted fields. The tests on `COND` and `ALU` can never fail (R99, R100);
they are kept for fidelity, as R135 allows. -/
def Record.inRange (r : Record) : Bool :=
  decide (r.cond.toNat ≤ 3) && decide (r.alu.toNat ≤ 3) && decide (r.sh.toNat ≤ 2)

/-- The microinstructions a control store can hold: all but the illegal class (R101). -/
def Instr.wellFormed : Instr → Bool
  | .illegal _ _ _ _ => false
  | .halt _ _ => true
  | .haltSh1 _ _ => true
  | .haltSh2 _ _ => true
  | .add _ => true
  | .addRd _ => true
  | .addWr _ => true
  | .addRsh _ => true
  | .addRshRd _ => true
  | .addRshWr _ => true
  | .addLsh _ => true
  | .addLshRd _ => true
  | .addLshWr _ => true
  | .and _ => true
  | .andRd _ => true
  | .andWr _ => true
  | .andRsh _ => true
  | .andRshRd _ => true
  | .andRshWr _ => true
  | .andLsh _ => true
  | .andLshRd _ => true
  | .andLshWr _ => true
  | .pass _ => true
  | .passRd _ => true
  | .passWr _ => true
  | .passRsh _ => true
  | .passRshRd _ => true
  | .passRshWr _ => true
  | .passLsh _ => true
  | .passLshRd _ => true
  | .passLshWr _ => true
  | .inv _ => true
  | .invRd _ => true
  | .invWr _ => true
  | .invRsh _ => true
  | .invRshRd _ => true
  | .invRshWr _ => true
  | .invLsh _ => true
  | .invLshRd _ => true
  | .invLshWr _ => true

/-- A control store: at most `CS_CAP` microinstructions (R62), each legal (R153). -/
def csWellFormed (cs : List Instr) : Bool := decide (cs.length ≤ csCap) && cs.all Instr.wellFormed

end Sys2Proof
end

