-- ==== Sys2Proof/Decode.lean ====
section
/-! DEFINITION. The decoder of spec/40_decoder.md, total on lines and on words and refusing by name, the
control-store load of spec/41_control_store.md, and after them the encoder and the opcode table. -/

namespace Sys2Proof

/-! ## Field values -/

/-- A one-bit field as an enable (R97). -/
def bit (v : BitVec 1) : Bool := v.getLsbD 0

/-- The bus code a 4-bit field selects: sixteen arms, no code unmapped (R166, R184). -/
def BusCode.ofBits (v : BitVec 4) : BusCode :=
  match v.getLsbD 3, v.getLsbD 2, v.getLsbD 1, v.getLsbD 0 with
  | false, false, false, false => .pc
  | false, false, false, true => .ac
  | false, false, true, false => .sp
  | false, false, true, true => .ir
  | false, true, false, false => .tir
  | false, true, false, true => .zero
  | false, true, true, false => .one
  | false, true, true, true => .minus1
  | true, false, false, false => .amask
  | true, false, false, true => .smask
  | true, false, true, false => .s0
  | true, false, true, true => .s1
  | true, true, false, false => .s2
  | true, true, false, true => .s3
  | true, true, true, false => .s4
  | true, true, true, true => .s5

/-- The number of a bus code (R166). -/
def BusCode.toBits : BusCode → BitVec 4
  | .pc => 0#4
  | .ac => 1#4
  | .sp => 2#4
  | .ir => 3#4
  | .tir => 4#4
  | .zero => 5#4
  | .one => 6#4
  | .minus1 => 7#4
  | .amask => 8#4
  | .smask => 9#4
  | .s0 => 10#4
  | .s1 => 11#4
  | .s2 => 12#4
  | .s3 => 13#4
  | .s4 => 14#4
  | .s5 => 15#4

/-- R99. -/
def Cond.ofBits (v : BitVec 2) : Cond :=
  match v.getLsbD 1, v.getLsbD 0 with
  | false, false => .never
  | false, true => .jn
  | true, false => .jz
  | true, true => .jmp

/-- R99. -/
def Cond.toBits : Cond → BitVec 2
  | .never => 0#2
  | .jn => 1#2
  | .jz => 2#2
  | .jmp => 3#2

/-- R100. -/
def AluOp.ofBits (v : BitVec 2) : AluOp :=
  match v.getLsbD 1, v.getLsbD 0 with
  | false, false => .add
  | false, true => .and
  | true, false => .pass
  | true, true => .inv

/-- R100. -/
def AluOp.toBits : AluOp → BitVec 2
  | .add => 0#2
  | .and => 1#2
  | .pass => 2#2
  | .inv => 3#2

/-- R100: the value 3 of `SH` is illegal and names no mode. -/
def ShiftMode.ofBits (v : BitVec 2) : Option ShiftMode :=
  match v.getLsbD 1, v.getLsbD 0 with
  | false, false => some .none
  | false, true => some .rsh
  | true, false => some .lsh
  | true, true => Option.none

/-- R100. -/
def ShiftMode.toBits : ShiftMode → BitVec 2
  | .none => 0#2
  | .rsh => 1#2
  | .lsh => 2#2

/-! ## From the record to the microinstruction -/

/-- The datapath microinstruction with the given ALU operation, shifter mode and memory action (R98). -/
def Instr.datapath : AluOp → ShiftMode → MemReq → Fields → Instr
  | .add, .none, .none, f => .add f
  | .add, .none, .rd, f => .addRd f
  | .add, .none, .wr, f => .addWr f
  | .add, .rsh, .none, f => .addRsh f
  | .add, .rsh, .rd, f => .addRshRd f
  | .add, .rsh, .wr, f => .addRshWr f
  | .add, .lsh, .none, f => .addLsh f
  | .add, .lsh, .rd, f => .addLshRd f
  | .add, .lsh, .wr, f => .addLshWr f
  | .and, .none, .none, f => .and f
  | .and, .none, .rd, f => .andRd f
  | .and, .none, .wr, f => .andWr f
  | .and, .rsh, .none, f => .andRsh f
  | .and, .rsh, .rd, f => .andRshRd f
  | .and, .rsh, .wr, f => .andRshWr f
  | .and, .lsh, .none, f => .andLsh f
  | .and, .lsh, .rd, f => .andLshRd f
  | .and, .lsh, .wr, f => .andLshWr f
  | .pass, .none, .none, f => .pass f
  | .pass, .none, .rd, f => .passRd f
  | .pass, .none, .wr, f => .passWr f
  | .pass, .rsh, .none, f => .passRsh f
  | .pass, .rsh, .rd, f => .passRshRd f
  | .pass, .rsh, .wr, f => .passRshWr f
  | .pass, .lsh, .none, f => .passLsh f
  | .pass, .lsh, .rd, f => .passLshRd f
  | .pass, .lsh, .wr, f => .passLshWr f
  | .inv, .none, .none, f => .inv f
  | .inv, .none, .rd, f => .invRd f
  | .inv, .none, .wr, f => .invWr f
  | .inv, .rsh, .none, f => .invRsh f
  | .inv, .rsh, .rd, f => .invRshRd f
  | .inv, .rsh, .wr, f => .invRshWr f
  | .inv, .lsh, .none, f => .invLsh f
  | .inv, .lsh, .rd, f => .invLshRd f
  | .inv, .lsh, .wr, f => .invLshWr f

/-- The HALT microinstruction with the given value of its ignored but validated `SH` field (R102). -/
def Instr.halting : ShiftMode → AluOp → Fields → Instr
  | .none, alu, f => .halt alu f
  | .rsh, alu, f => .haltSh1 alu f
  | .lsh, alu, f => .haltSh2 alu f

/-- The nine free fields of a record. -/
def Record.fields (r : Record) : Fields where
  amux := bit r.amux
  cond := Cond.ofBits r.cond
  mbr := bit r.mbr
  mar := bit r.mar
  enc := bit r.enc
  c := BusCode.ofBits r.c
  b := BusCode.ofBits r.b
  a := BusCode.ofBits r.a
  addr := r.addr

/-- The class of a record, tested in R98's order: illegal first, then HALT, then the datapath. -/
def Record.toInstr (r : Record) : Instr :=
  match ShiftMode.ofBits r.sh, bit r.rd, bit r.wr with
  | Option.none, rd, wr => .illegal (AluOp.ofBits r.alu) rd wr r.fields
  | some m, true, true => .halting m (AluOp.ofBits r.alu) r.fields
  | some m, false, false => .datapath (AluOp.ofBits r.alu) m .none r.fields
  | some m, true, false => .datapath (AluOp.ofBits r.alu) m .rd r.fields
  | some m, false, true => .datapath (AluOp.ofBits r.alu) m .wr r.fields

/-! ## `DecodeWord` -/

/-- Field extraction, total on words (R134). -/
def extract (w : MicroWord) : Record where
  amux := w.extractLsb' 31 1
  cond := w.extractLsb' 29 2
  alu := w.extractLsb' 27 2
  sh := w.extractLsb' 25 2
  mbr := w.extractLsb' 24 1
  mar := w.extractLsb' 23 1
  rd := w.extractLsb' 22 1
  wr := w.extractLsb' 21 1
  enc := w.extractLsb' 20 1
  c := w.extractLsb' 16 4
  b := w.extractLsb' 12 4
  a := w.extractLsb' 8 4
  addr := w.extractLsb' 0 8

/-- The row of the opcode table a word falls in, with its fields: total, since the rows cover every word
(R111). -/
def classify (w : MicroWord) : Instr := (extract w).toInstr

/-- `DecodeWord`: extraction, then range validation (R134, R135, R137). -/
def decodeWord (w : MicroWord) : Except DecodeError Instr :=
  if (extract w).inRange then .ok (classify w) else .error .range

/-! ## `DecodeLine` -/

/-- "each '0' or '1'" (R132). -/
def isBinary (c : Char) : Bool := c == '0' || c == '1'

/-- The binary numeral a line spells, first character most significant (R9, R133; R78 for a program
line). -/
def lineValue (line : Line) : Nat := line.foldl (fun n c => 2 * n + (if c == '1' then 1 else 0)) 0

/-- `DecodeLine`: length first, then characters, then the word (R131 to R133, order R138). -/
def decodeLine (line : Line) : Except DecodeError MicroWord :=
  if line.length ≠ 32 then .error .length
  else if line.all isBinary then .ok (BitVec.ofNat 32 (lineValue line))
  else .error .nonBinary

/-- `Decode(line) = DecodeWord(w)` where `w` is the word `DecodeLine` yields (R130). -/
def decode (line : Line) : Except DecodeError Instr :=
  match decodeLine line with
  | .ok w => decodeWord w
  | .error e => .error e

/-! ## `LoadControlStore` -/

/-- Decode a list in order, the item counted `i` first; the first failure is the load's (R152, R153,
R155). -/
def decodeEach {α : Type} (dec : α → Except DecodeError Instr) :
    Nat → List α → Except LoadError (List Instr)
  | _, [] => .ok []
  | i, x :: xs =>
    match dec x with
    | .error e => .error (.line i e)
    | .ok instr =>
      match decodeEach dec (i + 1) xs with
      | .error e => .error e
      | .ok rest => .ok (instr :: rest)

/-- `LoadControlStore`: the capacity check first, independent of the lines' content (R150, R151, R155),
then every line (R152 to R154). -/
def loadControlStore (lines : List Line) : Except LoadError (List Instr) :=
  if lines.length > csCap then .error (.capacity lines.length) else decodeEach decode 0 lines

/-- The same interface at the level of bits: a list of at most 256 words (R40). -/
def loadControlWords (words : List MicroWord) : Except LoadError (List Instr) :=
  if words.length > csCap then .error (.capacity words.length) else decodeEach decodeWord 0 words

/-- The codes L1 to L4 of R264; the spec's own labels (D12). -/
def LoadError.code : LoadError → Nat
  | .capacity _ => 1
  | .line _ .length => 2
  | .line _ .nonBinary => 3
  | .line _ .range => 4

/-! ## `EncodeWord` -/

/-- A one-bit field from an enable. -/
def bitOf (b : Bool) : BitVec 1 := BitVec.ofBool b

/-- The record of nine free fields and the four the row fixes. -/
def Fields.record (f : Fields) (alu sh : BitVec 2) (rd wr : BitVec 1) : Record where
  amux := bitOf f.amux
  cond := f.cond.toBits
  alu := alu
  sh := sh
  mbr := bitOf f.mbr
  mar := bitOf f.mar
  rd := rd
  wr := wr
  enc := bitOf f.enc
  c := f.c.toBits
  b := f.b.toBits
  a := f.a.toBits
  addr := f.addr

/-- The record of a microinstruction: the row's `ALU`, `SH`, `RD`, `WR` and the free fields (R111). -/
def Instr.toRecord : Instr → Record
  | .illegal alu rd wr f => f.record alu.toBits 3#2 (bitOf rd) (bitOf wr)
  | .halt alu f => f.record alu.toBits 0#2 1#1 1#1
  | .haltSh1 alu f => f.record alu.toBits 1#2 1#1 1#1
  | .haltSh2 alu f => f.record alu.toBits 2#2 1#1 1#1
  | .add f => f.record 0#2 0#2 0#1 0#1
  | .addRd f => f.record 0#2 0#2 1#1 0#1
  | .addWr f => f.record 0#2 0#2 0#1 1#1
  | .addRsh f => f.record 0#2 1#2 0#1 0#1
  | .addRshRd f => f.record 0#2 1#2 1#1 0#1
  | .addRshWr f => f.record 0#2 1#2 0#1 1#1
  | .addLsh f => f.record 0#2 2#2 0#1 0#1
  | .addLshRd f => f.record 0#2 2#2 1#1 0#1
  | .addLshWr f => f.record 0#2 2#2 0#1 1#1
  | .and f => f.record 1#2 0#2 0#1 0#1
  | .andRd f => f.record 1#2 0#2 1#1 0#1
  | .andWr f => f.record 1#2 0#2 0#1 1#1
  | .andRsh f => f.record 1#2 1#2 0#1 0#1
  | .andRshRd f => f.record 1#2 1#2 1#1 0#1
  | .andRshWr f => f.record 1#2 1#2 0#1 1#1
  | .andLsh f => f.record 1#2 2#2 0#1 0#1
  | .andLshRd f => f.record 1#2 2#2 1#1 0#1
  | .andLshWr f => f.record 1#2 2#2 0#1 1#1
  | .pass f => f.record 2#2 0#2 0#1 0#1
  | .passRd f => f.record 2#2 0#2 1#1 0#1
  | .passWr f => f.record 2#2 0#2 0#1 1#1
  | .passRsh f => f.record 2#2 1#2 0#1 0#1
  | .passRshRd f => f.record 2#2 1#2 1#1 0#1
  | .passRshWr f => f.record 2#2 1#2 0#1 1#1
  | .passLsh f => f.record 2#2 2#2 0#1 0#1
  | .passLshRd f => f.record 2#2 2#2 1#1 0#1
  | .passLshWr f => f.record 2#2 2#2 0#1 1#1
  | .inv f => f.record 3#2 0#2 0#1 0#1
  | .invRd f => f.record 3#2 0#2 1#1 0#1
  | .invWr f => f.record 3#2 0#2 0#1 1#1
  | .invRsh f => f.record 3#2 1#2 0#1 0#1
  | .invRshRd f => f.record 3#2 1#2 1#1 0#1
  | .invRshWr f => f.record 3#2 1#2 0#1 1#1
  | .invLsh f => f.record 3#2 2#2 0#1 0#1
  | .invLshRd f => f.record 3#2 2#2 1#1 0#1
  | .invLshWr f => f.record 3#2 2#2 0#1 1#1

/-- `EncodeWord` (R141). -/
def encodeWord (r : Record) : MicroWord :=
  (r.amux.setWidth 32 <<< 31) ||| (r.cond.setWidth 32 <<< 29) ||| (r.alu.setWidth 32 <<< 27) |||
  (r.sh.setWidth 32 <<< 25) ||| (r.mbr.setWidth 32 <<< 24) ||| (r.mar.setWidth 32 <<< 23) |||
  (r.rd.setWidth 32 <<< 22) ||| (r.wr.setWidth 32 <<< 21) ||| (r.enc.setWidth 32 <<< 20) |||
  (r.c.setWidth 32 <<< 16) ||| (r.b.setWidth 32 <<< 12) ||| (r.a.setWidth 32 <<< 8) |||
  r.addr.setWidth 32

/-- The word of a microinstruction. -/
def encode (i : Instr) : MicroWord := encodeWord i.toRecord

/-- The line of a word, the inverse of `DecodeLine`: `W[31]` first and `W[0]` last (R133). -/
def lineOfWord (w : MicroWord) : Line :=
  (List.range 32).map fun k => if w.getLsbD (31 - k) then '1' else '0'

/-! ## The opcode table -/

/-- A row's mnemonic, as the table spells it. -/
def Instr.mnemonic : Instr → String
  | .illegal _ _ _ _ => "ILLEGAL"
  | .halt _ _ => "HALT"
  | .haltSh1 _ _ => "HALT.SH1"
  | .haltSh2 _ _ => "HALT.SH2"
  | .add _ => "ADD"
  | .addRd _ => "ADD.RD"
  | .addWr _ => "ADD.WR"
  | .addRsh _ => "ADD.RSH"
  | .addRshRd _ => "ADD.RSH.RD"
  | .addRshWr _ => "ADD.RSH.WR"
  | .addLsh _ => "ADD.LSH"
  | .addLshRd _ => "ADD.LSH.RD"
  | .addLshWr _ => "ADD.LSH.WR"
  | .and _ => "AND"
  | .andRd _ => "AND.RD"
  | .andWr _ => "AND.WR"
  | .andRsh _ => "AND.RSH"
  | .andRshRd _ => "AND.RSH.RD"
  | .andRshWr _ => "AND.RSH.WR"
  | .andLsh _ => "AND.LSH"
  | .andLshRd _ => "AND.LSH.RD"
  | .andLshWr _ => "AND.LSH.WR"
  | .pass _ => "PASS"
  | .passRd _ => "PASS.RD"
  | .passWr _ => "PASS.WR"
  | .passRsh _ => "PASS.RSH"
  | .passRshRd _ => "PASS.RSH.RD"
  | .passRshWr _ => "PASS.RSH.WR"
  | .passLsh _ => "PASS.LSH"
  | .passLshRd _ => "PASS.LSH.RD"
  | .passLshWr _ => "PASS.LSH.WR"
  | .inv _ => "INV"
  | .invRd _ => "INV.RD"
  | .invWr _ => "INV.WR"
  | .invRsh _ => "INV.RSH"
  | .invRshRd _ => "INV.RSH.RD"
  | .invRshWr _ => "INV.RSH.WR"
  | .invLsh _ => "INV.LSH"
  | .invLshRd _ => "INV.LSH.RD"
  | .invLshWr _ => "INV.LSH.WR"

/-- Rows of spec/opcode_table.json. -/
def rowsSystem : List Row :=
  [⟨"ILLEGAL", 0x06000000#32, 0x06000000#32⟩,
   ⟨"HALT", 0x00600000#32, 0x06600000#32⟩,
   ⟨"HALT.SH1", 0x02600000#32, 0x06600000#32⟩,
   ⟨"HALT.SH2", 0x04600000#32, 0x06600000#32⟩]

/-- Rows of spec/opcode_table.json. -/
def rowsAdd : List Row :=
  [⟨"ADD", 0x00000000#32, 0x1E600000#32⟩,
   ⟨"ADD.RD", 0x00400000#32, 0x1E600000#32⟩,
   ⟨"ADD.WR", 0x00200000#32, 0x1E600000#32⟩,
   ⟨"ADD.RSH", 0x02000000#32, 0x1E600000#32⟩,
   ⟨"ADD.RSH.RD", 0x02400000#32, 0x1E600000#32⟩,
   ⟨"ADD.RSH.WR", 0x02200000#32, 0x1E600000#32⟩,
   ⟨"ADD.LSH", 0x04000000#32, 0x1E600000#32⟩,
   ⟨"ADD.LSH.RD", 0x04400000#32, 0x1E600000#32⟩,
   ⟨"ADD.LSH.WR", 0x04200000#32, 0x1E600000#32⟩]

/-- Rows of spec/opcode_table.json. -/
def rowsAnd : List Row :=
  [⟨"AND", 0x08000000#32, 0x1E600000#32⟩,
   ⟨"AND.RD", 0x08400000#32, 0x1E600000#32⟩,
   ⟨"AND.WR", 0x08200000#32, 0x1E600000#32⟩,
   ⟨"AND.RSH", 0x0A000000#32, 0x1E600000#32⟩,
   ⟨"AND.RSH.RD", 0x0A400000#32, 0x1E600000#32⟩,
   ⟨"AND.RSH.WR", 0x0A200000#32, 0x1E600000#32⟩,
   ⟨"AND.LSH", 0x0C000000#32, 0x1E600000#32⟩,
   ⟨"AND.LSH.RD", 0x0C400000#32, 0x1E600000#32⟩,
   ⟨"AND.LSH.WR", 0x0C200000#32, 0x1E600000#32⟩]

/-- Rows of spec/opcode_table.json. -/
def rowsPass : List Row :=
  [⟨"PASS", 0x10000000#32, 0x1E600000#32⟩,
   ⟨"PASS.RD", 0x10400000#32, 0x1E600000#32⟩,
   ⟨"PASS.WR", 0x10200000#32, 0x1E600000#32⟩,
   ⟨"PASS.RSH", 0x12000000#32, 0x1E600000#32⟩,
   ⟨"PASS.RSH.RD", 0x12400000#32, 0x1E600000#32⟩,
   ⟨"PASS.RSH.WR", 0x12200000#32, 0x1E600000#32⟩,
   ⟨"PASS.LSH", 0x14000000#32, 0x1E600000#32⟩,
   ⟨"PASS.LSH.RD", 0x14400000#32, 0x1E600000#32⟩,
   ⟨"PASS.LSH.WR", 0x14200000#32, 0x1E600000#32⟩]

/-- Rows of spec/opcode_table.json. -/
def rowsInv : List Row :=
  [⟨"INV", 0x18000000#32, 0x1E600000#32⟩,
   ⟨"INV.RD", 0x18400000#32, 0x1E600000#32⟩,
   ⟨"INV.WR", 0x18200000#32, 0x1E600000#32⟩,
   ⟨"INV.RSH", 0x1A000000#32, 0x1E600000#32⟩,
   ⟨"INV.RSH.RD", 0x1A400000#32, 0x1E600000#32⟩,
   ⟨"INV.RSH.WR", 0x1A200000#32, 0x1E600000#32⟩,
   ⟨"INV.LSH", 0x1C000000#32, 0x1E600000#32⟩,
   ⟨"INV.LSH.RD", 0x1C400000#32, 0x1E600000#32⟩,
   ⟨"INV.LSH.WR", 0x1C200000#32, 0x1E600000#32⟩]

/-- The forty rows of spec/opcode_table.json (R111). -/
def opcodeTable : List Row := rowsSystem ++ rowsAdd ++ rowsAnd ++ rowsPass ++ rowsInv

/-- The microinstruction the decoder reads from a table word of `nbits` bits, those above being 0; none
where the decoder refuses it (R135). -/
def decodeTableWord (nbits w : Nat) : Option Instr :=
  match decodeWord (BitVec.ofNat 32 (w % 2 ^ nbits)) with
  | .ok i => some i
  | .error _ => Option.none

end Sys2Proof
end

