-- ==== Sys2Proof/Machine/Flags.lean ====
section
/-! DEFINITION. The ALU with its two flags (spec/43_alu.md), the shifter (spec/44_shifter.md) and the branch
conditions (spec/45_sequencer.md section 2): pure functions of their arguments. -/

namespace Sys2Proof.Machine

/-- What the ALU answers (R185). -/
structure AluOut where
  result : Word
  zero : Bool
  negative : Bool
  deriving DecidableEq, Repr

/-- "masked to the low 15 bits" (R192). -/
def invMask : Word := 0x7FFF#16

/-- The raw result: an unbounded signed integer (R185, stage 1). For `INV` it is the masked value (R192;
the spec's decision D3, log 3). -/
def aluRaw (op : AluOp) (a b : Word) : Int :=
  match op with
  | .add => a.toInt + b.toInt
  | .and => (a &&& b).toInt
  | .pass => a.toInt
  | .inv => (~~~a &&& invMask).toInt

/-- The wrapped result (R185, stage 3). -/
def aluResult (op : AluOp) (a b : Word) : Word := BitVec.ofInt 16 (aluRaw op a b)

/-- The zero flag, on the wrapped result (R186). -/
def aluZero (op : AluOp) (a b : Word) : Bool := decide (aluResult op a b = 0#16)

/-- The negative flag, the sign of the raw result and not bit 15 of the wrapped one (R187). -/
def aluNegative (op : AluOp) (a b : Word) : Bool := decide (aluRaw op a b < 0)

/-- `ALU(op, a, b)` (R185). -/
def alu (op : AluOp) (a b : Word) : AluOut :=
  ⟨aluResult op a b, aluZero op a b, aluNegative op a b⟩

/-- `Shift(mode, v)`: one bit, zeros shifted in, the bit shifted out lost, no flag (R200 to R204; D4, D5). -/
def shift (mode : ShiftMode) (v : Word) : Word :=
  match mode with
  | .none => v
  | .rsh => v >>> 1
  | .lsh => v <<< 1

/-- Whether step 11 takes the branch, from the flags step 7 wrote (R216, R219 to R222). -/
def branchTaken (cond : Cond) (z n : Bool) : Bool :=
  match cond with
  | .never => false
  | .jn => n
  | .jz => z
  | .jmp => true

end Sys2Proof.Machine
end

