-- ==== Sys2Proof/Machine/State.lean ====
section
/-! DEFINITION. The machine's state (spec/10_state.md), plain data, its launch state and its reset. -/

namespace Sys2Proof.Machine

/-- The eleven registers, one home each (R20). Bus codes 5 to 9 have no storage (R23). -/
structure RegFile where
  pc : Word
  ac : Word
  sp : Word
  ir : Word
  tir : Word
  s0 : Word
  s1 : Word
  s2 : Word
  s3 : Word
  s4 : Word
  s5 : Word
  deriving DecidableEq, Repr

/-- `state` (R32). -/
inductive RunState where
  | running | halted | faulted
  deriving DecidableEq, Repr

/-- The fault record: the cause and its one number, the offending `mar` or `mpc` (R33, R265). -/
inductive FaultRecord where
  | memoryFault (mar : Word)
  | writeFault (mar : Word)
  | internalFault (mpc : Mpc)
  deriving DecidableEq, Repr

/-- Program memory: (word address, word) pairs, addresses strictly rising, no entry equal to the all-ones
sentinel an unlisted cell holds (R61, R68). The cell is the 16-bit word: there are no bytes (R67; log 20). -/
abbrev Memory := List (Nat × Word)

/-- The diagnostic snapshot handed to the host on the Faulted transition (R44). -/
structure Snapshot where
  regs : RegFile
  mar : Word
  mbr : Word
  mem : Memory
  memSize : Nat
  mpc : Mpc
  z : Bool
  n : Bool
  bt : Bool
  fault : FaultRecord
  deriving DecidableEq, Repr

/-- All the state of R37, with the configuration, the control store and the diagnostic sink's record. -/
structure State where
  /-- the implementation parameters, constant in a run (R6; log 24) -/
  cfg : Config
  regs : RegFile
  /-- the micro-program counter (R24) -/
  mpc : Mpc
  /-- the memory-address register (R26) -/
  mar : Word
  /-- the memory-buffer register (R27) -/
  mbr : Word
  /-- zero flag (R28) -/
  z : Bool
  /-- negative flag (R29) -/
  n : Bool
  /-- branch-taken flag (R30) -/
  bt : Bool
  runState : RunState
  /-- the fault record (R33) -/
  fault : Option FaultRecord
  /-- program memory (R35) -/
  mem : Memory
  /-- the control store: decoded microinstructions, immutable after the load (R34, R154, R160; log 25) -/
  cs : List Instr
  /-- MODEL's own: the snapshots the host's sink has received (R44, R268; log 27) -/
  dumps : List Snapshot
  deriving DecidableEq, Repr

/-- Why a step of a machine cannot be taken: the run is over and "no cycle runs in Halted or Faulted"
(R32). A run-time fault of R265 is not one of these: its transition is a next state (log 26). -/
inductive Fault where
  /-- raised by `step` on a machine in Halted: stuck (R32, R225; U5). Safe: the model only stops. -/
  | machineHalted
  /-- raised by `step` on a machine in Faulted: stuck (R32, R273; U5). Safe: the model only stops. -/
  | machineFaulted
  deriving DecidableEq, Repr

/-- Why an instruction has no meaning. -/
inductive Refusal where
  /-- raised by an arm of `exec` whose instruction has no meaning yet; no arm does. Safe. -/
  | notModelled (mnemonic : String)
  /-- raised by the meaning of ILLEGAL: a word with `SH` = 3 "never reaches the sequencer" and has "no
  behaviour to define for executing" it (R101). Safe: the model only stops. -/
  | illegalEncoding
  deriving DecidableEq, Repr

/-- The launch values the spec leaves free (R47). -/
structure LaunchValues where
  pc : Word
  ac : Word
  ir : Word
  tir : Word
  s0 : Word
  s1 : Word
  s2 : Word
  s3 : Word
  s4 : Word
  s5 : Word
  mar : Word
  mbr : Word
  deriving DecidableEq, Repr

/-- The state at the start of cycle 1 (R45, R290), for every configuration, every choice of the free launch
values and every loaded control store and program memory. -/
def State.launch (cfg : Config) (v : LaunchValues) (cs : List Instr) (mem : Memory) : State where
  cfg := cfg
  regs := ⟨v.pc, v.ac, cfg.spReset, v.ir, v.tir, v.s0, v.s1, v.s2, v.s3, v.s4, v.s5⟩
  mpc := 0#9
  mar := v.mar
  mbr := v.mbr
  z := false
  n := false
  bt := false
  runState := .running
  fault := none
  mem := mem
  cs := cs
  dumps := []

/-- DESIGN CHOICE (log 9): the free launch values of `State.reset`, all zero. -/
def LaunchValues.zero : LaunchValues := ⟨0, 0, 0, 0, 0, 0, 0, 0, 0, 0, 0, 0⟩

/-- The machine right after the construction of a fresh instance of the reference system, with nothing
loaded (R45, R290): no microinstruction in the control store, every memory cell the sentinel. -/
def State.reset : State := State.launch Config.reference LaunchValues.zero [] []

end Sys2Proof.Machine
end

