-- ==== Sys2Proof/Machine/Ops.lean ====
section
/-! DEFINITION. The named operations over registers, memory and sequencer state: bus read and write,
program memory, the Faulted transition, the halt, the start of a cycle. -/

namespace Sys2Proof.Machine

/-! ## Program memory -/

/-- What a cell nothing has written holds: the all-ones sentinel (R68). -/
def unlisted : Word := 0xFFFF#16

/-- The word of one cell (R64). -/
def Memory.read (m : Memory) (a : Nat) : Word :=
  match m with
  | [] => unlisted
  | (b, v) :: rest => if b = a then v else Memory.read rest a

/-- The memory with one cell set, in canonical form again (R65). -/
def Memory.write (m : Memory) (a : Nat) (v : Word) : Memory :=
  match m with
  | [] => if v = unlisted then [] else [(a, v)]
  | (b, w) :: rest =>
    if b < a then (b, w) :: Memory.write rest a v
    else if b = a then (if v = unlisted then rest else (a, v) :: rest)
    else (if v = unlisted then (b, w) :: rest else (a, v) :: (b, w) :: rest)

/-- The canonical form above a bound: every address at least `lo`, strictly rising, no entry unlisted. -/
def Memory.wfFrom (lo : Nat) (m : Memory) : Bool :=
  match m with
  | [] => true
  | (a, v) :: rest => decide (lo ≤ a) && (v != unlisted) && Memory.wfFrom (a + 1) rest

/-- The canonical form of program memory. -/
def Memory.wf (m : Memory) : Bool := Memory.wfFrom 0 m

/-- Every listed address is one of the memory's cells (R61). -/
def Memory.within (size : Nat) (m : Memory) : Bool := m.all fun cell => decide (cell.1 < size)

/-- The bounds test, unsigned (R66). -/
def inBounds (s : State) (addr : Word) : Bool := decide (addr.toNat < s.cfg.memSize)

/-- `MemRead(addr, 1)`; changes nothing (R64). -/
def memRead (s : State) (addr : Word) : Word := s.mem.read addr.toNat

/-! ## The register file and the buses -/

/-- `R[c] <- v`; the constant codes have no register and ignore the write (R20, R180, R184). -/
def RegFile.write (r : RegFile) (c : BusCode) (v : Word) : RegFile :=
  match c with
  | .pc => { r with pc := v }
  | .ac => { r with ac := v }
  | .sp => { r with sp := v }
  | .ir => { r with ir := v }
  | .tir => { r with tir := v }
  | .zero => r
  | .one => r
  | .minus1 => r
  | .amask => r
  | .smask => r
  | .s0 => { r with s0 := v }
  | .s1 => { r with s1 := v }
  | .s2 => { r with s2 := v }
  | .s3 => { r with s3 := v }
  | .s4 => { r with s4 := v }
  | .s5 => { r with s5 := v }

/-- `BusRead(c)` (R166 to R174). -/
def busRead (s : State) (c : BusCode) : Word :=
  match c with
  | .pc => s.regs.pc
  | .ac => s.regs.ac
  | .sp => s.regs.sp
  | .ir => s.regs.ir
  | .tir => s.regs.tir
  | .zero => 0x0000#16
  | .one => 0x0001#16
  | .minus1 => 0xFFFF#16
  | .amask => s.cfg.amask
  | .smask => s.cfg.smask
  | .s0 => s.regs.s0
  | .s1 => s.regs.s1
  | .s2 => s.regs.s2
  | .s3 => s.regs.s3
  | .s4 => s.regs.s4
  | .s5 => s.regs.s5

/-! ## Updates of one piece of state -/

def State.setRegs (s : State) (r : RegFile) : State := { s with regs := r }

def State.setMpc (s : State) (t : Mpc) : State := { s with mpc := t }

def State.setMar (s : State) (v : Word) : State := { s with mar := v }

def State.setMbr (s : State) (v : Word) : State := { s with mbr := v }

def State.setFlags (s : State) (z n bt : Bool) : State := { s with z := z, n := n, bt := bt }

def State.setMem (s : State) (m : Memory) : State := { s with mem := m }

/-- The sequencer's transition with its fault record (R32, R33). -/
def State.setRunState (s : State) (r : RunState) (f : Option FaultRecord) : State :=
  { s with runState := r, fault := f }

/-- The host's sink receives a snapshot (R44, R268). -/
def State.addDump (s : State) (d : Snapshot) : State := { s with dumps := s.dumps ++ [d] }

/-- `BusWrite(c, v)`: one register changes, or none (R180). -/
def busWrite (s : State) (c : BusCode) (v : Word) : State := s.setRegs (s.regs.write c v)

/-- `MemWrite(addr, 1, v)` (R65). -/
def memWrite (s : State) (addr : Word) (v : Word) : State := s.setMem (s.mem.write addr.toNat v)

/-! ## The Faulted transition and the halt -/

/-- The snapshot of a state with the given fault record (R44). -/
def snapshotOf (s : State) (f : FaultRecord) : Snapshot :=
  ⟨s.regs, s.mar, s.mbr, s.mem, s.cfg.memSize, s.mpc, s.z, s.n, s.bt, f⟩

/-- "the full contents of Program Memory": the words of a snapshot, from address 0 (R44). -/
def Snapshot.words (d : Snapshot) : List Word := (List.range d.memSize).map d.mem.read

/-- `raise Fault(cause, info)`, the one way every run-time fault is taken (R268): Faulted, the record, and
the snapshot handed over. Nothing is saved elsewhere, control goes nowhere, and no return exists (R273). -/
def raiseFault (f : FaultRecord) (s : State) : State :=
  (s.setRunState .faulted (some f)).addDump (snapshotOf s f)

/-- `state <- Halted` (R214, step 3). -/
def enterHalted (s : State) : State := s.setRunState .halted s.fault

/-- The codes F1 to F3 of R265; the spec's own labels (D12). -/
def FaultRecord.code : FaultRecord → Nat
  | .memoryFault _ => 1
  | .writeFault _ => 2
  | .internalFault _ => 3

/-! ## The start of a cycle -/

/-- Step 1: clear the three transient flags (R211). -/
def clearFlags (s : State) : State := s.setFlags false false false

/-- Step 2: the lookup of R157 at `mpc`, then the increment (R212, R213); outside the loaded range the
InternalFault of R158 and R269, `mpc` not incremented. -/
def fetch (s : State) : Option Instr × State :=
  match s.cs[s.mpc.toNat]? with
  | some i => (some i, s.setMpc (s.mpc + 1))
  | Option.none => (Option.none, raiseFault (.internalFault s.mpc) s)

/-! ## What the host may observe -/

/-- The status outputs (R43). -/
structure Status where
  runState : RunState
  fault : Option FaultRecord
  z : Bool
  n : Bool
  bt : Bool
  mpc : Mpc
  deriving DecidableEq, Repr

def statusOf (s : State) : Status := ⟨s.runState, s.fault, s.z, s.n, s.bt, s.mpc⟩

end Sys2Proof.Machine
end

