-- ==== Sys2Proof/Machine/Operands.lean ====
section
/-! DEFINITION. The operand forms and the datapath steps 4 to 12 of spec/45_sequencer.md R210, one operation
per step, and the whole datapath built from them. -/

namespace Sys2Proof.Machine

/-- Step 4: the A bus carries `mbr` when `AMUX` = 1, else the register or constant `A` selects (R175, R176). -/
def aBus (f : Fields) (s : State) : Word := if f.amux then s.mbr else busRead s f.a

/-- Step 5: the B bus has no multiplexer (R177). -/
def bBus (f : Fields) (s : State) : Word := busRead s f.b

/-- Step 6: `MAR` latches the whole B bus, unmasked and unchecked (R240). -/
def latchMar (f : Fields) (bbus : Word) (s : State) : State := if f.mar then s.setMar bbus else s

/-- Step 7: store the ALU's two flags (R185); `bt` is untouched. -/
def storeFlags (r : AluOut) (s : State) : State := s.setFlags r.zero r.negative s.bt

/-- Step 9: register write-back (R181, R182). -/
def writeBack (f : Fields) (shifted : Word) (s : State) : State :=
  if f.enc then busWrite s f.c shifted else s

/-- Step 10: `MBR` latches the shifter output (R242). -/
def latchMbr (f : Fields) (shifted : Word) (s : State) : State := if f.mbr then s.setMbr shifted else s

/-- The branch target, the 8-bit `ADDR` zero-extended (R94, R217). -/
def branchTarget (f : Fields) : Mpc := f.addr.setWidth 9

/-- Step 11: the branch, on the flags of this same cycle (R216, R218). -/
def evalBranch (f : Fields) (s : State) : State :=
  if branchTaken f.cond s.z s.n then (s.setMpc (branchTarget f)).setFlags s.z s.n true else s

/-- The outputs of the program-memory port in step 12 (R41). -/
structure MemPort where
  memAddr : Word
  memWdata : Word
  memRd : Bool
  memWr : Bool
  deriving DecidableEq, Repr

/-- `mem_addr` is always `mar` and `mem_wdata` always `mbr`; the request bits are the microinstruction's, never
both 1 (R41, R249). -/
def memPort (q : MemReq) (s : State) : MemPort :=
  match q with
  | .none => ⟨s.mar, s.mbr, false, false⟩
  | .rd => ⟨s.mar, s.mbr, true, false⟩
  | .wr => ⟨s.mar, s.mbr, false, true⟩

/-- Step 12: the memory access, checked against the bounds before it is made (R244, R246, R248; an
out-of-bounds write faults by D8). -/
def memAccess (q : MemReq) (s : State) : State :=
  let p := memPort q s
  if p.memRd then
    if inBounds s p.memAddr then s.setMbr (memRead s p.memAddr)
    else raiseFault (.memoryFault p.memAddr) s
  else if p.memWr then
    if inBounds s p.memAddr then memWrite s p.memAddr p.memWdata
    else raiseFault (.writeFault p.memAddr) s
  else s

/-- Steps 4 to 11, on the state steps 1 and 2 left: each reads the writes of the ones before it (R210,
R215). -/
def datapathSteps (op : AluOp) (sh : ShiftMode) (f : Fields) (s : State) : State :=
  let abus := aBus f s
  let bbus := bBus f s
  let s6 := latchMar f bbus s
  let r := alu op abus bbus
  let s7 := storeFlags r s6
  let shifted := shift sh r.result
  let s9 := writeBack f shifted s7
  let s10 := latchMbr f shifted s9
  evalBranch f s10

/-- Steps 4 to 12 of a datapath microinstruction (R210). It completes in every state: its faults are the
Faulted transition of R268, a next state. -/
def datapath (op : AluOp) (sh : ShiftMode) (q : MemReq) (f : Fields) (s : State) : State :=
  memAccess q (datapathSteps op sh f s)

end Sys2Proof.Machine
end

