-- ==== Sys2Proof/Machine/Add.lean ====
section
/-! DEFINITION. The meanings of the nine `ADD` rows of the opcode table: steps 3 to 12 of R210 on the state that
steps 1 and 2 left. -/

namespace Sys2Proof.Machine

/-- `ADD` (R189, R201, R248). -/
def execAdd (f : Fields) (s : State) : Host.Outcome State Fault Refusal :=
  .next (datapath .add .none .none f s)

/-- `ADD.RD` (R189, R201, R244). -/
def execAddRd (f : Fields) (s : State) : Host.Outcome State Fault Refusal :=
  .next (datapath .add .none .rd f s)

/-- `ADD.WR` (R189, R201, R246). -/
def execAddWr (f : Fields) (s : State) : Host.Outcome State Fault Refusal :=
  .next (datapath .add .none .wr f s)

/-- `ADD.RSH` (R189, R202, R248). -/
def execAddRsh (f : Fields) (s : State) : Host.Outcome State Fault Refusal :=
  .next (datapath .add .rsh .none f s)

/-- `ADD.RSH.RD` (R189, R202, R244). -/
def execAddRshRd (f : Fields) (s : State) : Host.Outcome State Fault Refusal :=
  .next (datapath .add .rsh .rd f s)

/-- `ADD.RSH.WR` (R189, R202, R246). -/
def execAddRshWr (f : Fields) (s : State) : Host.Outcome State Fault Refusal :=
  .next (datapath .add .rsh .wr f s)

/-- `ADD.LSH` (R189, R203, R248). -/
def execAddLsh (f : Fields) (s : State) : Host.Outcome State Fault Refusal :=
  .next (datapath .add .lsh .none f s)

/-- `ADD.LSH.RD` (R189, R203, R244). -/
def execAddLshRd (f : Fields) (s : State) : Host.Outcome State Fault Refusal :=
  .next (datapath .add .lsh .rd f s)

/-- `ADD.LSH.WR` (R189, R203, R246). -/
def execAddLshWr (f : Fields) (s : State) : Host.Outcome State Fault Refusal :=
  .next (datapath .add .lsh .wr f s)

end Sys2Proof.Machine
end

