-- ==== Sys2Proof/Machine/And.lean ====
section
/-! DEFINITION. The meanings of the nine `AND` rows of the opcode table: steps 3 to 12 of R210 on the state that
steps 1 and 2 left. -/

namespace Sys2Proof.Machine

/-- `AND` (R190, R201, R248). -/
def execAnd (f : Fields) (s : State) : Host.Outcome State Fault Refusal :=
  .next (datapath .and .none .none f s)

/-- `AND.RD` (R190, R201, R244). -/
def execAndRd (f : Fields) (s : State) : Host.Outcome State Fault Refusal :=
  .next (datapath .and .none .rd f s)

/-- `AND.WR` (R190, R201, R246). -/
def execAndWr (f : Fields) (s : State) : Host.Outcome State Fault Refusal :=
  .next (datapath .and .none .wr f s)

/-- `AND.RSH` (R190, R202, R248). -/
def execAndRsh (f : Fields) (s : State) : Host.Outcome State Fault Refusal :=
  .next (datapath .and .rsh .none f s)

/-- `AND.RSH.RD` (R190, R202, R244). -/
def execAndRshRd (f : Fields) (s : State) : Host.Outcome State Fault Refusal :=
  .next (datapath .and .rsh .rd f s)

/-- `AND.RSH.WR` (R190, R202, R246). -/
def execAndRshWr (f : Fields) (s : State) : Host.Outcome State Fault Refusal :=
  .next (datapath .and .rsh .wr f s)

/-- `AND.LSH` (R190, R203, R248). -/
def execAndLsh (f : Fields) (s : State) : Host.Outcome State Fault Refusal :=
  .next (datapath .and .lsh .none f s)

/-- `AND.LSH.RD` (R190, R203, R244). -/
def execAndLshRd (f : Fields) (s : State) : Host.Outcome State Fault Refusal :=
  .next (datapath .and .lsh .rd f s)

/-- `AND.LSH.WR` (R190, R203, R246). -/
def execAndLshWr (f : Fields) (s : State) : Host.Outcome State Fault Refusal :=
  .next (datapath .and .lsh .wr f s)

end Sys2Proof.Machine
end

