-- ==== Sys2Proof/Machine/Halt.lean ====
section
/-! DEFINITION. The meanings of the HALT rows and of the ILLEGAL row of the opcode table. -/

namespace Sys2Proof.Machine

/-- `HALT` (R214): no datapath activity; every field but `RD` and `WR` is ignored (R102). -/
def execHalt (_alu : AluOp) (_f : Fields) (s : State) : Host.Outcome State Fault Refusal :=
  .next (enterHalted s)

/-- `HALT.SH1` (R214): `SH` was validated at load and is ignored here (R102). -/
def execHaltSh1 (_alu : AluOp) (_f : Fields) (s : State) : Host.Outcome State Fault Refusal :=
  .next (enterHalted s)

/-- `HALT.SH2` (R214): `SH` was validated at load and is ignored here (R102). -/
def execHaltSh2 (_alu : AluOp) (_f : Fields) (s : State) : Host.Outcome State Fault Refusal :=
  .next (enterHalted s)

/-- `ILLEGAL` (R101): "there is no run-time illegal-instruction trap and no behaviour to define for executing
one", so the meaning stops by name (log 28). -/
def execIllegal (_alu : AluOp) (_rd _wr : Bool) (_f : Fields) (_s : State) :
    Host.Outcome State Fault Refusal :=
  .refused .illegalEncoding

end Sys2Proof.Machine
end

