-- ==== Sys2Proof/Machine/Inv.lean ====
section
/-! DEFINITION. The meanings of the nine `INV` rows of the opcode table: steps 3 to 12 of R210 on the state that
steps 1 and 2 left. -/

namespace Sys2Proof.Machine

/-- `INV` (R192, R201, R248). -/
def execInv (f : Fields) (s : State) : Host.Outcome State Fault Refusal :=
  .next (datapath .inv .none .none f s)

/-- `INV.RD` (R192, R201, R244). -/
def execInvRd (f : Fields) (s : State) : Host.Outcome State Fault Refusal :=
  .next (datapath .inv .none .rd f s)

/-- `INV.WR` (R192, R201, R246). -/
def execInvWr (f : Fields) (s : State) : Host.Outcome State Fault Refusal :=
  .next (datapath .inv .none .wr f s)

/-- `INV.RSH` (R192, R202, R248). -/
def execInvRsh (f : Fields) (s : State) : Host.Outcome State Fault Refusal :=
  .next (datapath .inv .rsh .none f s)

/-- `INV.RSH.RD` (R192, R202, R244). -/
def execInvRshRd (f : Fields) (s : State) : Host.Outcome State Fault Refusal :=
  .next (datapath .inv .rsh .rd f s)

/-- `INV.RSH.WR` (R192, R202, R246). -/
def execInvRshWr (f : Fields) (s : State) : Host.Outcome State Fault Refusal :=
  .next (datapath .inv .rsh .wr f s)

/-- `INV.LSH` (R192, R203, R248). -/
def execInvLsh (f : Fields) (s : State) : Host.Outcome State Fault Refusal :=
  .next (datapath .inv .lsh .none f s)

/-- `INV.LSH.RD` (R192, R203, R244). -/
def execInvLshRd (f : Fields) (s : State) : Host.Outcome State Fault Refusal :=
  .next (datapath .inv .lsh .rd f s)

/-- `INV.LSH.WR` (R192, R203, R246). -/
def execInvLshWr (f : Fields) (s : State) : Host.Outcome State Fault Refusal :=
  .next (datapath .inv .lsh .wr f s)

end Sys2Proof.Machine
end

