-- ==== Sys2Proof/Machine/Pass.lean ====
section
/-! DEFINITION. The meanings of the nine `PASS` rows of the opcode table: steps 3 to 12 of R210 on the state that
steps 1 and 2 left. -/

namespace Sys2Proof.Machine

/-- `PASS` (R191, R201, R248). -/
def execPass (f : Fields) (s : State) : Host.Outcome State Fault Refusal :=
  .next (datapath .pass .none .none f s)

/-- `PASS.RD` (R191, R201, R244). -/
def execPassRd (f : Fields) (s : State) : Host.Outcome State Fault Refusal :=
  .next (datapath .pass .none .rd f s)

/-- `PASS.WR` (R191, R201, R246). -/
def execPassWr (f : Fields) (s : State) : Host.Outcome State Fault Refusal :=
  .next (datapath .pass .none .wr f s)

/-- `PASS.RSH` (R191, R202, R248). -/
def execPassRsh (f : Fields) (s : State) : Host.Outcome State Fault Refusal :=
  .next (datapath .pass .rsh .none f s)

/-- `PASS.RSH.RD` (R191, R202, R244). -/
def execPassRshRd (f : Fields) (s : State) : Host.Outcome State Fault Refusal :=
  .next (datapath .pass .rsh .rd f s)

/-- `PASS.RSH.WR` (R191, R202, R246). -/
def execPassRshWr (f : Fields) (s : State) : Host.Outcome State Fault Refusal :=
  .next (datapath .pass .rsh .wr f s)

/-- `PASS.LSH` (R191, R203, R248). -/
def execPassLsh (f : Fields) (s : State) : Host.Outcome State Fault Refusal :=
  .next (datapath .pass .lsh .none f s)

/-- `PASS.LSH.RD` (R191, R203, R244). -/
def execPassLshRd (f : Fields) (s : State) : Host.Outcome State Fault Refusal :=
  .next (datapath .pass .lsh .rd f s)

/-- `PASS.LSH.WR` (R191, R203, R246). -/
def execPassLshWr (f : Fields) (s : State) : Host.Outcome State Fault Refusal :=
  .next (datapath .pass .lsh .wr f s)

end Sys2Proof.Machine
end

