-- ==== Sys2Proof/Machine/Dispatch.lean ====
section
/-! DEFINITION. One arm per constructor of Instr. -/

namespace Sys2Proof.Machine

def exec (i : Instr) (s : State) : Host.Outcome State Fault Refusal :=
  match i with
  | .illegal alu rd wr f => Sys2Proof.Machine.execIllegal alu rd wr f s
  | .halt alu f => Sys2Proof.Machine.execHalt alu f s
  | .haltSh1 alu f => Sys2Proof.Machine.execHaltSh1 alu f s
  | .haltSh2 alu f => Sys2Proof.Machine.execHaltSh2 alu f s
  | .add f => Sys2Proof.Machine.execAdd f s
  | .addRd f => Sys2Proof.Machine.execAddRd f s
  | .addWr f => Sys2Proof.Machine.execAddWr f s
  | .addRsh f => Sys2Proof.Machine.execAddRsh f s
  | .addRshRd f => Sys2Proof.Machine.execAddRshRd f s
  | .addRshWr f => Sys2Proof.Machine.execAddRshWr f s
  | .addLsh f => Sys2Proof.Machine.execAddLsh f s
  | .addLshRd f => Sys2Proof.Machine.execAddLshRd f s
  | .addLshWr f => Sys2Proof.Machine.execAddLshWr f s
  | .and f => Sys2Proof.Machine.execAnd f s
  | .andRd f => Sys2Proof.Machine.execAndRd f s
  | .andWr f => Sys2Proof.Machine.execAndWr f s
  | .andRsh f => Sys2Proof.Machine.execAndRsh f s
  | .andRshRd f => Sys2Proof.Machine.execAndRshRd f s
  | .andRshWr f => Sys2Proof.Machine.execAndRshWr f s
  | .andLsh f => Sys2Proof.Machine.execAndLsh f s
  | .andLshRd f => Sys2Proof.Machine.execAndLshRd f s
  | .andLshWr f => Sys2Proof.Machine.execAndLshWr f s
  | .pass f => Sys2Proof.Machine.execPass f s
  | .passRd f => Sys2Proof.Machine.execPassRd f s
  | .passWr f => Sys2Proof.Machine.execPassWr f s
  | .passRsh f => Sys2Proof.Machine.execPassRsh f s
  | .passRshRd f => Sys2Proof.Machine.execPassRshRd f s
  | .passRshWr f => Sys2Proof.Machine.execPassRshWr f s
  | .passLsh f => Sys2Proof.Machine.execPassLsh f s
  | .passLshRd f => Sys2Proof.Machine.execPassLshRd f s
  | .passLshWr f => Sys2Proof.Machine.execPassLshWr f s
  | .inv f => Sys2Proof.Machine.execInv f s
  | .invRd f => Sys2Proof.Machine.execInvRd f s
  | .invWr f => Sys2Proof.Machine.execInvWr f s
  | .invRsh f => Sys2Proof.Machine.execInvRsh f s
  | .invRshRd f => Sys2Proof.Machine.execInvRshRd f s
  | .invRshWr f => Sys2Proof.Machine.execInvRshWr f s
  | .invLsh f => Sys2Proof.Machine.execInvLsh f s
  | .invLshRd f => Sys2Proof.Machine.execInvLshRd f s
  | .invLshWr f => Sys2Proof.Machine.execInvLshWr f s

end Sys2Proof.Machine
end

