-- ==== Sys2Proof/Machine/Step.lean ====
section
/-! DEFINITION. One cycle of the sequencer (spec/45_sequencer.md R210, R228), and placing a microinstruction
where the next cycle fetches it. -/

namespace Sys2Proof.Machine

/-- One cycle: steps 1 and 2, then the microinstruction's own steps 3 to 12. No cycle runs in Halted or Faulted
(R32): the machine is stuck there. -/
def step (s : State) : Host.Outcome State Fault Refusal :=
  match s.runState with
  | .halted => .fault .machineHalted
  | .faulted => .fault .machineFaulted
  | .running =>
    match fetch (clearFlags s) with
    | (some i, s2) => exec i s2
    | (Option.none, s2) => .next s2

/-- `cs` with `i` at index `k`; a store too short is extended with copies of `i`, so that nothing but `i` is
invented. -/
def placeAt (cs : List Instr) (k : Nat) (i : Instr) : List Instr :=
  if k < cs.length then cs.set k i else cs ++ List.replicate (k + 1 - cs.length) i

/-- `s` with the word's microinstruction at control-store index `mpc` and the sequencer Running: it stands for
the host's load (R40, R291; log 25). An illegal word, which no load accepts, is placed as the ILLEGAL
microinstruction, and the next step refuses it (log 28). -/
def State.withFetchWord (s : State) (nbits w : Nat) : State :=
  { s with
    cs := placeAt s.cs s.mpc.toNat (classify (BitVec.ofNat 32 (w % 2 ^ nbits)))
    runState := .running }

end Sys2Proof.Machine
end

