-- ==== Sys2Proof/Machine/Assembler.lean ====
section
/-! DEFINITION. The spec's own written form of a microinstruction (spec/30_encoding.md R108 to R110; D16). -/

namespace Sys2Proof.Machine

/-- `modifier` of R108, its register and number already read. -/
inductive Modifier where
  | amux | rsh | lsh | mbr | mar | rd | wr | enc
  | a (r : BusCode)
  | b (r : BusCode)
  | c (r : BusCode)
  | jn (t : BitVec 8)
  | jz (t : BitVec 8)
  | jmp (t : BitVec 8)
  | addr (t : BitVec 8)
  deriving DecidableEq, Repr

/-- The names of the fields a token can set. -/
inductive FieldName where
  | amux | cond | sh | mbr | mar | rd | wr | enc | c | b | a | addr
  deriving DecidableEq, Repr

/-- The fields a token sets (R109). -/
def Modifier.sets : Modifier → List FieldName
  | .amux => [.amux]
  | .rsh => [.sh]
  | .lsh => [.sh]
  | .mbr => [.mbr]
  | .mar => [.mar]
  | .rd => [.rd]
  | .wr => [.wr]
  | .enc => [.enc]
  | .a _ => [.a]
  | .b _ => [.b]
  | .c _ => [.c]
  | .jn _ => [.cond, .addr]
  | .jz _ => [.cond, .addr]
  | .jmp _ => [.cond, .addr]
  | .addr _ => [.addr]

/-- The values a token sets them to (R109). -/
def Modifier.apply (r : Record) : Modifier → Record
  | .amux => { r with amux := 1#1 }
  | .rsh => { r with sh := 1#2 }
  | .lsh => { r with sh := 2#2 }
  | .mbr => { r with mbr := 1#1 }
  | .mar => { r with mar := 1#1 }
  | .rd => { r with rd := 1#1 }
  | .wr => { r with wr := 1#1 }
  | .enc => { r with enc := 1#1 }
  | .a x => { r with a := x.toBits }
  | .b x => { r with b := x.toBits }
  | .c x => { r with c := x.toBits }
  | .jn t => { r with cond := 1#2, addr := t }
  | .jz t => { r with cond := 2#2, addr := t }
  | .jmp t => { r with cond := 3#2, addr := t }
  | .addr t => { r with addr := t }

/-- "Every field starts at 0" (R109). -/
def Record.zero : Record := ⟨0, 0, 0, 0, 0, 0, 0, 0, 0, 0, 0, 0, 0⟩

/-- `op { " " modifier }`: "a field set twice, `RSH` with `LSH`, or `RD` with `WR` is an error of the notation"
(R109). -/
def assembleDatapath (op : AluOp) (ms : List Modifier) : Option Instr :=
  if (ms.flatMap Modifier.sets).Nodup ∧ ¬ (Modifier.rd ∈ ms ∧ Modifier.wr ∈ ms) then
    some (ms.foldl Modifier.apply { Record.zero with alu := op.toBits }).toInstr
  else none

/-- `HALT`: `RD` = 1, `WR` = 1 and every other field 0 (R109). -/
def assembleHalt : Instr := { Record.zero with rd := 1#1, wr := 1#1 : Record }.toInstr

/-! ## The characters -/

/-- The digits of a base, as values. -/
def digitValue (base : Nat) (c : Char) : Option Nat :=
  let n := c.toNat
  let v := if 48 ≤ n ∧ n ≤ 57 then some (n - 48)
    else if 65 ≤ n ∧ n ≤ 70 then some (n - 55)
    else if 97 ≤ n ∧ n ≤ 102 then some (n - 87)
    else none
  v.filter (· < base)

/-- A non-empty run of digits. -/
def numeral (base : Nat) (cs : List Char) : Option Nat :=
  if cs.isEmpty then none
  else cs.foldl (fun acc c => acc.bind fun n => (digitValue base c).map (base * n + ·)) (some 0)

/-- `num`: "decimal number, or 0x followed by hexadecimal digits" (R108). -/
def parseNum : List Char → Option Nat
  | '0' :: 'x' :: rest => numeral 16 rest
  | cs => numeral 10 cs

/-- The register names of R109. -/
def registerNames : List (String × BusCode) :=
  [("PC", .pc), ("AC", .ac), ("SP", .sp), ("IR", .ir), ("TIR", .tir), ("ZERO", .zero), ("ONE", .one),
   ("MINUS1", .minus1), ("AMASK", .amask), ("SMASK", .smask), ("S0", .s0), ("S1", .s1), ("S2", .s2),
   ("S3", .s3), ("S4", .s4), ("S5", .s5)]

/-- The value a word of the notation has in a table of names. -/
def named {α : Type} (table : List (String × α)) (cs : List Char) : Option α :=
  (table.find? fun row => row.1.toList == cs).map (·.2)

/-- `reg`: `num(0..15)` or a name (R108). -/
def parseReg (cs : List Char) : Option BusCode :=
  match named registerNames cs with
  | some r => some r
  | none => ((parseNum cs).filter (· < 16)).map fun n => BusCode.ofBits (BitVec.ofNat 4 n)

/-- A branch target: a number the 8-bit `ADDR` holds; a larger one is refused (DESIGN CHOICE, log 32). -/
def parseTarget (cs : List Char) : Option (BitVec 8) :=
  ((parseNum cs).filter (· < 256)).map (BitVec.ofNat 8)

/-- The modifiers without an argument (R108). -/
def plainModifiers : List (String × Modifier) :=
  [("AMUX", .amux), ("RSH", .rsh), ("LSH", .lsh), ("MBR", .mbr), ("MAR", .mar), ("RD", .rd), ("WR", .wr),
   ("ENC", .enc)]

/-- The operation words (R108). -/
def operationWords : List (String × AluOp) :=
  [("ADD", .add), ("AND", .and), ("PASS", .pass), ("INV", .inv)]

/-- `modifier` (R108). -/
def parseModifier (cs : List Char) : Option Modifier :=
  match cs with
  | 'A' :: '=' :: r => (parseReg r).map .a
  | 'B' :: '=' :: r => (parseReg r).map .b
  | 'C' :: '=' :: r => (parseReg r).map .c
  | 'J' :: 'N' :: '=' :: t => (parseTarget t).map .jn
  | 'J' :: 'Z' :: '=' :: t => (parseTarget t).map .jz
  | 'J' :: 'M' :: 'P' :: '=' :: t => (parseTarget t).map .jmp
  | 'A' :: 'D' :: 'D' :: 'R' :: '=' :: t => (parseTarget t).map .addr
  | _ => named plainModifiers cs

/-- The words of a line, separated by one space each (R108). -/
def splitWords : List Char → List (List Char)
  | [] => [[]]
  | c :: cs =>
    match splitWords cs with
    | [] => [[c]]
    | w :: ws => if c == ' ' then [] :: w :: ws else (c :: w) :: ws

/-- All of a list, or none. -/
def allSome {α : Type} : List (Option α) → Option (List α)
  | [] => some []
  | none :: _ => none
  | some x :: xs => (allSome xs).map (x :: ·)

/-- One microinstruction written on one line (R108, R109); there are no pseudo-instructions (R110). -/
def assemble (line : Line) : Option Instr :=
  match splitWords line with
  | [] => none
  | w :: ws =>
    if w == "HALT".toList && ws.isEmpty then some assembleHalt
    else
      (named operationWords w).bind fun op =>
        (allSome (ws.map parseModifier)).bind (assembleDatapath op)

end Sys2Proof.Machine
end

