-- ==== Sys2Proof/Machine/Boot.lean ====
section
/-! DEFINITION. What the host does before cycle 1: the program load (spec/20_memory.md R68, R78, R79) and the boot
(spec/70_reset_and_hazards.md R290, R291). -/

namespace Sys2Proof.Machine

/-- Why the host refuses a program: R79 gives the refusal no name and no number, so these two are the
model's (log 14). -/
inductive ProgramError where
  | tooLong (lines : Nat)
  | badLine (i : Nat)
  deriving DecidableEq, Repr

/-- A program line: exactly 16 binary characters, the first is bit 15 (R78; D14). -/
def programWord (line : Line) : Option Word :=
  if line.length = 16 ∧ line.all isBinary then some (BitVec.ofNat 16 (lineValue line)) else none

/-- The words of the lines, or the index of the first malformed line (log 34). -/
def programWords : Nat → List Line → Except ProgramError (List Word)
  | _, [] => .ok []
  | i, l :: ls =>
    match programWord l with
    | none => .error (.badLine i)
    | some w =>
      match programWords (i + 1) ls with
      | .error e => .error e
      | .ok ws => .ok (w :: ws)

/-- The memory that holds the words from address `a` up and the sentinel everywhere else (R68): a word equal to
the sentinel is not listed. -/
def memoryFrom : Nat → List Word → Memory
  | _, [] => []
  | a, w :: ws => if w = unlisted then memoryFrom (a + 1) ws else (a, w) :: memoryFrom (a + 1) ws

/-- The program load: refused as a whole if there are more lines than cells or a line is malformed (R79). Which reason
is reported is the model's: too many lines before any malformed line, then the first malformed line (DESIGN CHOICE,
log 34). -/
def loadProgram (cfg : Config) (lines : List Line) : Except ProgramError Memory :=
  if lines.length > cfg.memSize then .error (.tooLong lines.length)
  else
    match programWords 0 lines with
    | .error e => .error e
    | .ok ws => .ok (memoryFrom 0 ws)

/-- Why a boot gives no machine: "no partial execution occurs" (R263). -/
inductive BootError where
  | controlStore (e : LoadError)
  | program (e : ProgramError)
  deriving DecidableEq, Repr

/-- Construction of a fresh instance with both loads (R290, R291). When both loads would fail, the control store's
error is the one reported (DESIGN CHOICE, log 33). -/
def boot (cfg : Config) (v : LaunchValues) (csLines programLines : List Line) :
    Except BootError State :=
  match loadControlStore csLines with
  | .error e => .error (.controlStore e)
  | .ok cs =>
    match loadProgram cfg programLines with
    | .error e => .error (.program e)
    | .ok mem => .ok (State.launch cfg v cs mem)

end Sys2Proof.Machine
end

