-- ==== Sys2Proof/Safety.lean ====
section
/-! DEFINITION. What counts as a good state and a good end of a run, in the terms the claims use. -/

namespace Sys2Proof.Machine

/-- The fault record and the sink agree with the sequencer's state: a record and exactly one snapshot in
Faulted, neither in Running or Halted (R32, R33, R44, R268). -/
def State.recordWf (s : State) : Prop :=
  match s.runState with
  | .running => s.fault = none ∧ s.dumps = []
  | .halted => s.fault = none ∧ s.dumps = []
  | .faulted => ∃ r, s.fault = some r ∧ s.dumps = [snapshotOf s r]

/-- What holds of every state a run reaches: the parameters are in range (R6), program memory is canonical and
inside its size (R61, R68), the control store is legal (R62, R153), `mpc` is in 0 to 256 (R24), and the fault
record agrees with the sequencer's state. -/
structure State.Inv (s : State) : Prop where
  cfgWf : s.cfg.wf = true
  memWf : s.mem.wf = true
  memWithin : s.mem.within s.cfg.memSize = true
  csWf : csWellFormed s.cs = true
  mpcRange : s.mpc.toNat ≤ csCap
  recordOk : s.recordWf

/-- The run is over (R225). -/
def State.Ended (s : State) : Prop := s.runState ≠ .running

/-- `Halted` is the only good end (R225). -/
def State.GoodEnd (s : State) : Prop := s.runState = .halted

/-- The state a cycle of a Running machine hands to the microinstruction at `mpc`: steps 1 and 2 done (R211,
R213). -/
def State.afterFetch (s : State) : State := (clearFlags s).setMpc (s.mpc + 1)

/-- The address a datapath microinstruction's memory access uses: `mar` as step 6 leaves it (R241). -/
def State.accessAddr (f : Fields) (s : State) : Word := if f.mar then busRead s f.b else s.mar

/-- The next cycle has no cause of a fault of R265: a microinstruction is loaded at `mpc`, and if it requests an
access, the address is in bounds. -/
def State.CannotFault (s : State) : Prop :=
  ∃ i, s.cs[s.mpc.toNat]? = some i ∧
    ∀ op sh q f, i = .datapath op sh q f → q ≠ .none → (s.accessAddr f).toNat < s.cfg.memSize

/-- A run from `s` is safe when it reaches no state in Faulted. -/
def SafeRun (s : State) : Prop :=
  ∀ k t, Host.Core.run Sys2Proof.core k s = .next t → State.runState t ≠ .faulted

end Sys2Proof.Machine
end

