-- ==== Sys2Proof/Certificates/Slice0/Obligations.lean ====
section
/-! DEFINITION. The statements about the model, for the provers. Rules R<n> are those of spec/; D<n> are the decisions of
spec/92_eei_decisions.md, and log <n> is notes/assumptions/<n>.md. -/

open Sys2Proof Sys2Proof.Machine

namespace Sys2Proof.Claims

/-! ## What the rules say, field by field, in terms the model's own operations do not use -/

/-- The A operand (R175, R176). -/
def opA (f : Fields) (s : State) : Word := if f.amux then s.mbr else busRead s f.a

/-- The B operand (R177). -/
def opB (f : Fields) (s : State) : Word := busRead s f.b

/-- Whether the branch is taken on given flags (R216). -/
def taken (f : Fields) (z n : Bool) : Bool :=
  (decide (f.cond = .jn) && n) || (decide (f.cond = .jz) && z) || decide (f.cond = .jmp)

/-- The state at the end of step 11, every field written out (R210): `z` and `n` are the ALU's flags and `v` the
shifter's output. -/
def atStep11 (f : Fields) (s : State) (z n : Bool) (v : Word) : State where
  cfg := s.cfg
  regs := if f.enc then s.regs.write f.c v else s.regs
  mpc := if taken f z n then f.addr.setWidth 9 else s.mpc
  mar := s.accessAddr f
  mbr := if f.mbr then v else s.mbr
  z := z
  n := n
  bt := taken f z n || s.bt
  runState := s.runState
  fault := s.fault
  mem := s.mem
  cs := s.cs
  dumps := s.dumps

/-- The end of a cycle that requests no access (R248). -/
def endsPlain (i : Instr) (f : Fields) (s : State) (z n : Bool) (v : Word) : Prop :=
  exec i s = .next (atStep11 f s z n v)

/-- The end of a cycle that reads in bounds: `mbr` is the word at the address step 6 left in `mar` (R241, R244). -/
def endsRead (i : Instr) (f : Fields) (s : State) (z n : Bool) (v : Word) : Prop :=
  (s.accessAddr f).toNat < s.cfg.memSize →
    exec i s = .next { atStep11 f s z n v with mbr := s.mem.read (s.accessAddr f).toNat }

/-- The end of a cycle that writes in bounds: the cell addressed gets `mbr` as step 10 left it (R246, R247). -/
def endsWrite (i : Instr) (f : Fields) (s : State) (z n : Bool) (v : Word) : Prop :=
  (s.accessAddr f).toNat < s.cfg.memSize →
    exec i s = .next { atStep11 f s z n v with
      mem := s.mem.write (s.accessAddr f).toNat (if f.mbr then v else s.mbr) }

/-- The ALU results of R189 to R192 on bit vectors. -/
def aluWord (op : AluOp) (a b : Word) : Word :=
  match op with
  | .add => a + b
  | .and => a &&& b
  | .pass => a
  | .inv => ~~~a &&& 0x7FFF#16

/-- The negative flag: bit 16 of the 17-bit sum for `ADD`, bit 15 of the result for the others (R187). -/
def aluSign (op : AluOp) (a b : Word) : Bool :=
  match op with
  | .add => (a.signExtend 17 + b.signExtend 17).getLsbD 16
  | .and => (a &&& b).getLsbD 15
  | .pass => a.getLsbD 15
  | .inv => (~~~a &&& 0x7FFF#16).getLsbD 15

/-- The shifter's values: `uint(v) div 2` and `(uint(v) * 2) mod 65536` (R202, R203). -/
def halved (v : Word) : Word := BitVec.ofNat 16 (v.toNat / 2)

def doubled (v : Word) : Word := BitVec.ofNat 16 (v.toNat * 2)

/-- The state with the Faulted transition of R268 done to it. -/
def faultedWith (r : FaultRecord) (u : State) : State :=
  { u with runState := .faulted, fault := some r, dumps := u.dumps ++ [snapshotOf u r] }

end Sys2Proof.Claims

open Sys2Proof.Claims

/-! ## Encoding and decoding -/

/-- R131, R132: a line that is not 32 characters long is refused for its length; one of 32 characters that holds
anything but '0' and '1' is refused as non-binary. -/
def Obligations.LengthAndCharacterChecks : Prop :=
  ∀ line : Line,
    (line.length ≠ 32 → decode line = .error .length) ∧
    (line.length = 32 → (∃ c ∈ line, c ≠ '0' ∧ c ≠ '1') → decode line = .error .nonBinary)

/-- R133, R137, R138 with the spec's decisions D1 and D13 (logs 1, 13): the verdict on every line. A range error is a
well-formed line whose characters at offsets 5 and 6 are both '1'; every other well-formed line yields a record. -/
def Obligations.VerdictOnEveryLine : Prop :=
  ∀ line : Line,
    (decode line = .error .length ↔ line.length ≠ 32) ∧
    (decode line = .error .nonBinary ↔ line.length = 32 ∧ ∃ c ∈ line, c ≠ '0' ∧ c ≠ '1') ∧
    (decode line = .error .range ↔ line.length = 32 ∧ (∀ c ∈ line, c = '0' ∨ c = '1') ∧
      (line)[5]? = some '1' ∧ (line)[6]? = some '1')

/-- R9, R133 (D1, log 1): the character at offset k is bit 31 - k of the word, and printing a word and reading it back
gives the word. -/
def Obligations.LineSpellsItsWord : Prop :=
  (∀ (line : Line) (w : MicroWord), decodeLine line = .ok w →
    ∀ k, k < 32 → w.getLsbD (31 - k) = ((line)[k]? == some '1')) ∧
  ∀ w : MicroWord, decodeLine (lineOfWord w) = .ok w

/-- R134: the thirteen fields are the unsigned slices `W[31]`, `W[30:29]`, ... `W[7:0]` of the word. -/
def Obligations.FieldsAreUnsignedSlices : Prop :=
  ∀ w : MicroWord, let r := extract w; let u := w.toNat
    r.amux.toNat = u / 2 ^ 31 ∧ r.cond.toNat = u / 2 ^ 29 % 4 ∧ r.alu.toNat = u / 2 ^ 27 % 4 ∧
    r.sh.toNat = u / 2 ^ 25 % 4 ∧ r.mbr.toNat = u / 2 ^ 24 % 2 ∧ r.mar.toNat = u / 2 ^ 23 % 2 ∧
    r.rd.toNat = u / 2 ^ 22 % 2 ∧ r.wr.toNat = u / 2 ^ 21 % 2 ∧ r.enc.toNat = u / 2 ^ 20 % 2 ∧
    r.c.toNat = u / 2 ^ 16 % 16 ∧ r.b.toNat = u / 2 ^ 12 % 16 ∧ r.a.toNat = u / 2 ^ 8 % 16 ∧
    r.addr.toNat = u % 256

/-- R141: decoding the encoding of any well-formed microinstruction gives it back, and encoding what a word decodes to
gives the word back; so no two words decode alike. -/
def Obligations.DecodeEncodeRoundTrip : Prop :=
  (∀ i : Instr, i.wellFormed = true → decodeWord (encode i) = .ok i) ∧
  ∀ (w : MicroWord) (i : Instr), decodeWord w = .ok i → encode i = w ∧ i.wellFormed = true

/-- R111: the opcode table has forty rows, no two of one mnemonic, they cover every word, each word exactly once, and the
row a word matches is the one whose mnemonic the word's microinstruction bears. -/
def Obligations.OneRowForEveryWord : Prop :=
  opcodeTable.length = 40 ∧ (opcodeTable.map Row.mnemonic).Nodup ∧
  (∀ w : MicroWord, ∃! row, row ∈ opcodeTable ∧ w &&& row.mask = row.value) ∧
  ∀ w : MicroWord, ∀ row ∈ opcodeTable,
    (w &&& row.mask = row.value ↔ row.mnemonic = (classify w).mnemonic)

/-- R101: the words with `SH` = 3, and no others, are refused by the decoder, and so is every line that is not 32
characters of '0' and '1'; a control store with a refused line is never built; and the ILLEGAL microinstruction has no behaviour: executing it is refused
(the model's stop, log 28). -/
def Obligations.IllegalWordsNeverRun : Prop :=
  (∀ w : MicroWord, decodeWord w = .error .range ↔ w &&& 0x06000000#32 = 0x06000000#32) ∧
  (∀ w : MicroWord, (∃ i, decodeWord w = .ok i) ↔ w &&& 0x06000000#32 ≠ 0x06000000#32) ∧
  (∀ (lines : List Line) (line : Line) (e : DecodeError), line ∈ lines → decode line = .error e →
    ¬ ∃ cs, loadControlStore lines = .ok cs) ∧
  (∀ line : Line, (line.length ≠ 32 ∨ ∃ c ∈ line, c ≠ '0' ∧ c ≠ '1') → ∃ e, decode line = .error e) ∧
  ∀ (alu : AluOp) (rd wr : Bool) (f : Fields) (s : State),
    decodeWord (encode (.illegal alu rd wr f)) = .error .range ∧
    exec (.illegal alu rd wr f) s = .refused .illegalEncoding

/-- Words written out bit by bit from R91 (spec/95_test_vectors.md section 2.1) decode to the microinstructions they
stand for, one of each class and ALU operation. -/
def Obligations.WordsOfEachFamilyDecode : Prop :=
  decodeWord 0b01000000000110100111101000000110#32 =
    .ok (.add ⟨false, .jz, false, false, true, .s0, .minus1, .s0, 6⟩) ∧
  decodeWord 0b01001000000101001000001100010000#32 =
    .ok (.and ⟨false, .jz, false, false, true, .tir, .amask, .ir, 16⟩) ∧
  decodeWord 0b00010001101000000010001000000000#32 =
    .ok (.passWr ⟨false, .never, true, true, false, .pc, .sp, .sp, 0⟩) ∧
  decodeWord 0b01011010010110100101101001011010#32 =
    .ok (.invRshRd ⟨false, .jz, false, false, true, .s0, .zero, .s0, 90⟩) ∧
  decodeWord 0b11111101111100010111011001010101#32 =
    .ok (.haltSh2 .inv ⟨true, .jmp, true, true, true, .ac, .minus1, .one, 85⟩) ∧
  decodeWord 0b00000110000000000000000000000000#32 = .error .range

/-! ## Loading and starting -/

/-- R151: the capacity error is reported exactly when there are more than 256 lines, whatever they hold (that it wins
over a malformed line is the spec's decision D17, log 17). -/
def Obligations.CapacityCheckOnLineCount : Prop :=
  ∀ lines : List Line,
    (∃ k, loadControlStore lines = .error (.capacity k)) ↔ lines.length > 256

/-- R154: at most 256 lines that all decode give a control store of as many entries, each the record of its line; and
no cycle ever changes it. -/
def Obligations.LoadedControlStoreIsImmutable : Prop :=
  (∀ lines : List Line, lines.length ≤ 256 → (∀ line ∈ lines, ∃ i, decode line = .ok i) →
    ∃ cs, loadControlStore lines = .ok cs ∧ cs.length = lines.length ∧
      ∀ (k : Nat) (line : Line), lines[k]? = some line → ∃ i, cs[k]? = some i ∧ decode line = .ok i) ∧
  ∀ s t : State, step s = .next t → t.cs = s.cs

/-- R153, R155 (D17, log 17): within capacity, the error names the first line that fails and its own reason. -/
def Obligations.FirstFailingLineIsReported : Prop :=
  ∀ (lines : List Line) (k : Nat) (line : Line) (e : DecodeError),
    lines.length ≤ 256 → lines[k]? = some line → decode line = .error e →
    (∀ j, j < k → ∀ l, lines[j]? = some l → ∃ i, decode l = .ok i) →
    loadControlStore lines = .error (.line k e)

/-- R68: after a program load, cell i holds the word of line i for every line, and every other cell reads the all-ones
sentinel. -/
def Obligations.UnloadedCellsReadAllOnes : Prop :=
  ∀ (cfg : Config) (lines : List Line) (m : Memory), loadProgram cfg lines = .ok m →
    (∀ (k : Nat) (line : Line), lines[k]? = some line → programWord line = some (m.read k)) ∧
    ∀ k, lines.length ≤ k → m.read k = 0xFFFF#16

/-- R290: a fresh instance starts Running at `mpc` 0 with `SP` at `SP_RESET`, both loads done, no fault and the flags 0
(the flags are the spec's decision D9, log 9), every launch value the source does not fix is free, and the first
microinstruction executed is `CS[0]`. -/
def Obligations.FreshInstanceStartsAtZero : Prop :=
  ∀ (cfg : Config) (v : LaunchValues) (csLines programLines : List Line) (s : State),
    boot cfg v csLines programLines = .ok s →
    s.cfg = cfg ∧ loadControlStore csLines = .ok s.cs ∧ loadProgram cfg programLines = .ok s.mem ∧
    s.mpc = 0#9 ∧ s.runState = .running ∧ s.fault = none ∧ s.regs.sp = cfg.spReset ∧
    s.z = false ∧ s.n = false ∧ s.bt = false ∧
    s.regs.pc = v.pc ∧ s.regs.ac = v.ac ∧ s.regs.ir = v.ir ∧ s.regs.tir = v.tir ∧
    s.regs.s0 = v.s0 ∧ s.regs.s1 = v.s1 ∧ s.regs.s2 = v.s2 ∧ s.regs.s3 = v.s3 ∧
    s.regs.s4 = v.s4 ∧ s.regs.s5 = v.s5 ∧ s.mar = v.mar ∧ s.mbr = v.mbr ∧
    ∀ (line : Line) (i : Instr), csLines[0]? = some line → decode line = .ok i →
      step s = exec i s.afterFetch

/-- R46 (the spec leaves the choice OPEN, D10, log 10): for every size of memory in range `SP_RESET` is the address of the
last cell or one past it, by the configuration's choice, and a store through it is in bounds exactly in the first
case. -/
def Obligations.StackPointerStartsAtTopOfMemory : Prop :=
  ∀ cfg : Config, cfg.wf = true →
    (cfg.spTop = .lastWord → cfg.spReset.toNat = cfg.memSize - 1 ∧ cfg.spReset.toNat < cfg.memSize) ∧
    (cfg.spTop = .onePast → cfg.spReset.toNat = cfg.memSize)

/-! ## Completion and result of every microinstruction -/

/-- R189: `ADD` with no shift, alone, with a read and with a write in bounds: the sum modulo 65536, `z` on that sum, `n` the
sign of the exact signed sum; every other field as written out. -/
def Obligations.AddCompletes : Prop :=
  ∀ (f : Fields) (s : State), let a := opA f s; let b := opB f s
    let r : Word := BitVec.ofNat 16 ((a.toNat + b.toNat) % 65536)
    let z := decide (r = 0#16)
    let n := decide (a.toInt + b.toInt < 0)
    endsPlain (.add f) f s z n r ∧ endsRead (.addRd f) f s z n r ∧ endsWrite (.addWr f) f s z n r

/-- R190: `AND` with no shift, alone, with a read and with a write in bounds: bit i of the result is both operands'
bit i, and `n` is bit 15 of the result. -/
def Obligations.AndCompletes : Prop :=
  ∀ (f : Fields) (s : State), ∃ r : Word,
    (∀ k, k < 16 → r.getLsbD k = ((opA f s).getLsbD k && (opB f s).getLsbD k)) ∧
    let z := decide (r = 0#16)
    let n := r.getLsbD 15
    endsPlain (.and f) f s z n r ∧ endsRead (.andRd f) f s z n r ∧ endsWrite (.andWr f) f s z n r

/-- R191: `PASS` with no shift, alone, with a read and with a write in bounds: the A operand, its zero-ness and its
bit 15. -/
def Obligations.PassCompletes : Prop :=
  ∀ (f : Fields) (s : State), let r := opA f s
    let z := decide (r = 0#16)
    let n := r.getLsbD 15
    endsPlain (.pass f) f s z n r ∧ endsRead (.passRd f) f s z n r ∧ endsWrite (.passWr f) f s z n r

/-- R192 (the `n` = 0 is the spec's decision D3, log 3): `INV` with no shift, alone, with a read and with a write in
bounds: the complement of bits 0 to 14 and bit 15 clear. -/
def Obligations.InvCompletes : Prop :=
  ∀ (f : Fields) (s : State), ∃ r : Word,
    (∀ k, k < 15 → r.getLsbD k = !(opA f s).getLsbD k) ∧ r.getLsbD 15 = false ∧
    let z := decide (r = 0#16)
    endsPlain (.inv f) f s z false r ∧ endsRead (.invRd f) f s z false r ∧
      endsWrite (.invWr f) f s z false r

/-- R202 (zero into bit 15 is the spec's decision D4, log 4; `n` after `INV` is D3, log 3): the twelve right-shifting
forms write half the ALU's result and take their flags from the unshifted one. -/
def Obligations.RightShiftFormsComplete : Prop :=
  ∀ (f : Fields) (s : State),
    let a := opA f s
    let b := opB f s
    let z := fun op => decide (aluWord op a b = 0#16)
    let n := fun op => aluSign op a b
    let v := fun op => halved (aluWord op a b)
    endsPlain (.addRsh f) f s (z .add) (n .add) (v .add) ∧
    endsRead (.addRshRd f) f s (z .add) (n .add) (v .add) ∧
    endsWrite (.addRshWr f) f s (z .add) (n .add) (v .add) ∧
    endsPlain (.andRsh f) f s (z .and) (n .and) (v .and) ∧
    endsRead (.andRshRd f) f s (z .and) (n .and) (v .and) ∧
    endsWrite (.andRshWr f) f s (z .and) (n .and) (v .and) ∧
    endsPlain (.passRsh f) f s (z .pass) (n .pass) (v .pass) ∧
    endsRead (.passRshRd f) f s (z .pass) (n .pass) (v .pass) ∧
    endsWrite (.passRshWr f) f s (z .pass) (n .pass) (v .pass) ∧
    endsPlain (.invRsh f) f s (z .inv) (n .inv) (v .inv) ∧
    endsRead (.invRshRd f) f s (z .inv) (n .inv) (v .inv) ∧
    endsWrite (.invRshWr f) f s (z .inv) (n .inv) (v .inv)

/-- R203 (dropping bit 15 is the spec's decision D5, log 5; `n` after `INV` is D3, log 3): the twelve left-shifting forms
write twice the ALU's result modulo 65536 and take their flags from the unshifted one. -/
def Obligations.LeftShiftFormsComplete : Prop :=
  ∀ (f : Fields) (s : State),
    let a := opA f s
    let b := opB f s
    let z := fun op => decide (aluWord op a b = 0#16)
    let n := fun op => aluSign op a b
    let v := fun op => doubled (aluWord op a b)
    endsPlain (.addLsh f) f s (z .add) (n .add) (v .add) ∧
    endsRead (.addLshRd f) f s (z .add) (n .add) (v .add) ∧
    endsWrite (.addLshWr f) f s (z .add) (n .add) (v .add) ∧
    endsPlain (.andLsh f) f s (z .and) (n .and) (v .and) ∧
    endsRead (.andLshRd f) f s (z .and) (n .and) (v .and) ∧
    endsWrite (.andLshWr f) f s (z .and) (n .and) (v .and) ∧
    endsPlain (.passLsh f) f s (z .pass) (n .pass) (v .pass) ∧
    endsRead (.passLshRd f) f s (z .pass) (n .pass) (v .pass) ∧
    endsWrite (.passLshWr f) f s (z .pass) (n .pass) (v .pass) ∧
    endsPlain (.invLsh f) f s (z .inv) (n .inv) (v .inv) ∧
    endsRead (.invLshRd f) f s (z .inv) (n .inv) (v .inv) ∧
    endsWrite (.invLshWr f) f s (z .inv) (n .inv) (v .inv)

/-- R214: HALT ends the run and does nothing else, whatever its other fields and `mar` hold: executing it only moves the
sequencer to Halted, and the whole cycle clears the flags, increments `mpc` and halts. -/
def Obligations.HaltCompletes : Prop :=
  ∀ (alu : AluOp) (f : Fields) (s : State),
    exec (.halt alu f) s = .next { s with runState := .halted } ∧
    exec (.haltSh1 alu f) s = .next { s with runState := .halted } ∧
    exec (.haltSh2 alu f) s = .next { s with runState := .halted } ∧
    ∀ m, s.runState = .running → s.cs[s.mpc.toNat]? = some (.halting m alu f) →
      step s = .next { s with z := false, n := false, bt := false, mpc := s.mpc + 1,
                              runState := .halted }

/-! ## Frames -/

/-- What the twenty-seven forms that store nothing leave unchanged: HALT (three rows) changes only the sequencer's
state; a datapath form without `WR` leaves every memory word, every register but the one `ENC` and `C` select, `mar`
unless `MAR`, `mbr` unless `MBR` or `RD`, the configuration and the control store; and one that requests no access
leaves the sequencer's state, the fault record and the sink. -/
def Obligations.FrameOfNonStoringForms : Prop :=
  (∀ (m : ShiftMode) (alu : AluOp) (f : Fields) (s t : State), exec (.halting m alu f) s = .next t →
    t = { s with runState := .halted } ∧ ∀ a, t.mem.read a = s.mem.read a) ∧
  ∀ (op : AluOp) (sh : ShiftMode) (q : MemReq) (f : Fields) (s t : State), q ≠ .wr →
    exec (.datapath op sh q f) s = .next t →
    (∀ a, t.mem.read a = s.mem.read a) ∧
    (∀ c, ¬ (f.enc = true ∧ c = f.c) → busRead t c = busRead s c) ∧
    (f.mar = false → t.mar = s.mar) ∧
    (f.mbr = false → q = .none → t.mbr = s.mbr) ∧
    t.cfg = s.cfg ∧ t.cs = s.cs ∧
    (q = .none → t.runState = s.runState ∧ t.fault = s.fault ∧ t.dumps = s.dumps)

/-- What the twelve storing forms leave unchanged: every memory word outside the one at the address their access uses,
every register but the one `ENC` and `C` select, `mar` unless `MAR`, `mbr` unless `MBR`, the configuration and the
control store; and in bounds also the sequencer's state, the fault record and the sink. -/
def Obligations.FrameOfStoringForms : Prop :=
  ∀ (op : AluOp) (sh : ShiftMode) (f : Fields) (s t : State),
    exec (.datapath op sh .wr f) s = .next t →
    (∀ a, a ≠ (s.accessAddr f).toNat → t.mem.read a = s.mem.read a) ∧
    (∀ c, ¬ (f.enc = true ∧ c = f.c) → busRead t c = busRead s c) ∧
    (f.mar = false → t.mar = s.mar) ∧
    (f.mbr = false → t.mbr = s.mbr) ∧
    t.cfg = s.cfg ∧ t.cs = s.cs ∧
    ((s.accessAddr f).toNat < s.cfg.memSize →
      t.runState = s.runState ∧ t.fault = s.fault ∧ t.dumps = s.dumps)

/-! ## Buses -/

/-- R166: what each of the sixteen bus codes puts on a bus, by its number. Codes 8 and 9 read the configuration's `AMASK`
and `SMASK`, whatever they are: parameters by the spec's decision D11 (log 11), 0x00FF and 0x003F as the source prints
them. -/
def Obligations.BusReadTable : Prop :=
  ∀ s : State, let rd := fun k : Nat => busRead s (BusCode.ofBits (BitVec.ofNat 4 k))
    rd 0 = s.regs.pc ∧ rd 1 = s.regs.ac ∧ rd 2 = s.regs.sp ∧ rd 3 = s.regs.ir ∧ rd 4 = s.regs.tir ∧
    rd 5 = 0x0000#16 ∧ rd 6 = 0x0001#16 ∧ rd 7 = 0xFFFF#16 ∧ rd 8 = s.cfg.amask ∧
    rd 9 = s.cfg.smask ∧ rd 10 = s.regs.s0 ∧ rd 11 = s.regs.s1 ∧ rd 12 = s.regs.s2 ∧
    rd 13 = s.regs.s3 ∧ rd 14 = s.regs.s4 ∧ rd 15 = s.regs.s5

/-- R180: a bus write changes exactly the register its code names, or nothing for codes 5 to 9, and nothing else of the
state. -/
def Obligations.BusWriteChangesOneRegister : Prop :=
  ∀ (s : State) (c d : BitVec 4) (v : Word),
    busRead (busWrite s (BusCode.ofBits c) v) (BusCode.ofBits d) =
      (if d = c ∧ ¬ (5 ≤ c.toNat ∧ c.toNat ≤ 9) then v else busRead s (BusCode.ofBits d)) ∧
    ∃ r, busWrite s (BusCode.ofBits c) v = { s with regs := r }

/-- R104: `ENC` = 1 with a destination code 5 to 9 writes nothing; the rest of the microinstruction acts exactly as with
`ENC` = 0. -/
def Obligations.WriteToConstantCodeIsIgnored : Prop :=
  ∀ (op : AluOp) (sh : ShiftMode) (q : MemReq) (f : Fields) (s : State) (c : BitVec 4),
    5 ≤ c.toNat → c.toNat ≤ 9 →
    exec (.datapath op sh q { f with enc := true, c := BusCode.ofBits c }) s =
      exec (.datapath op sh q { f with enc := false, c := BusCode.ofBits c }) s

/-- R172: no sequence of microinstructions changes what bus codes 5 to 9 read. -/
def Obligations.ConstantsSurviveEveryRun : Prop :=
  ∀ (k : Nat) (s t : State) (c : BusCode), Host.Core.run Sys2Proof.core k s = .next t →
    c ∈ [BusCode.zero, .one, .minus1, .amask, .smask] → busRead t c = busRead s c

/-- R21, R25: in one cycle a register changes only if the microinstruction fetched is a datapath one whose `ENC` is set
and whose `C` selects that register; so `PC` and `SP` are never moved by the hardware. -/
def Obligations.RegistersChangeOnlyThroughC : Prop :=
  ∀ (s t : State) (c : BusCode), step s = .next t → busRead t c ≠ busRead s c →
    ∃ op sh q f, s.cs[s.mpc.toNat]? = some (.datapath op sh q f) ∧ f.enc = true ∧ f.c = c

/-! ## ALU and shifter -/

/-- R186: the zero flag is 1 exactly when all sixteen bits of the wrapped result are 0; for `ADD` exactly when the raw sum
is 0 or -65536; and the cycle's `z` is that flag whatever the shifter does. -/
def Obligations.ZeroFlagOnWrappedResult : Prop :=
  (∀ (op : AluOp) (a b : Word), (alu op a b).zero = true ↔ ∀ k, k < 16 → (alu op a b).result.getLsbD k = false) ∧
  (∀ a b : Word, (alu .add a b).zero = true ↔ a.toInt + b.toInt = 0 ∨ a.toInt + b.toInt = -65536) ∧
  ∀ (op : AluOp) (sh : ShiftMode) (q : MemReq) (f : Fields) (s t : State),
    exec (.datapath op sh q f) s = .next t → t.z = (alu op (opA f s) (opB f s)).zero

/-- R187: the negative flag is the sign of the raw result: bit 15 of the result for `AND`, `PASS` and `INV`; for `ADD` it is
the sign of the exact sum, bit 16 of the 17-bit sum, and differs from bit 15 of the result exactly when the sum leaves
the signed 16-bit range; and the cycle's `n` is that flag. That the raw result of `INV` is the masked one, so that its
`n` is 0, is the spec's decision D3 (log 3). -/
def Obligations.NegativeFlagIsSignOfRawResult : Prop :=
  (∀ (op : AluOp) (a b : Word), op ≠ .add → (alu op a b).negative = (alu op a b).result.getLsbD 15) ∧
  (∀ (op : AluOp) (sh : ShiftMode) (q : MemReq) (f : Fields) (s t : State),
    exec (.datapath op sh q f) s = .next t → t.n = (alu op (opA f s) (opB f s)).negative) ∧
  ∀ a b : Word,
    (alu .add a b).negative = decide (a.toInt + b.toInt < 0) ∧
    (alu .add a b).negative = (a.signExtend 17 + b.signExtend 17).getLsbD 16 ∧
    (alu .add a b).result = (a.signExtend 17 + b.signExtend 17).setWidth 16 ∧
    ((alu .add a b).negative ≠ (alu .add a b).result.getLsbD 15 ↔
      a.toInt + b.toInt < -32768 ∨ 32767 < a.toInt + b.toInt)

/-- R192 (`negative` = 0 is the spec's decision D3, log 3): `INV` never answers a negative value, answers zero exactly for
0x7FFF and 0xFFFF, is the true complement exactly when bit 15 of the operand is set, and undoes itself when it is
clear. -/
def Obligations.InvertForcesBitFifteenClear : Prop :=
  ∀ a b : Word,
    (alu .inv a b).negative = false ∧ (alu .inv a b).result.toNat ≤ 0x7FFF ∧
    ((alu .inv a b).zero = true ↔ a = 0x7FFF#16 ∨ a = 0xFFFF#16) ∧
    ((alu .inv a b).result = ~~~a ↔ a.getLsbD 15 = true) ∧
    (a.getLsbD 15 = false → (alu .inv (alu .inv a b).result b).result = a)

/-- R201 to R203 (the bits shifted in and out are the spec's decisions D4 and D5, logs 4 and 5): no shift, halving, and
doubling modulo 65536. -/
def Obligations.ShifterHalvesAndDoubles : Prop :=
  ∀ v : Word, shift .none v = v ∧ (shift .rsh v).toNat = v.toNat / 2 ∧
    (shift .lsh v).toNat = v.toNat * 2 % 65536

/-- R204: the shifter does not touch the flags: two forms that differ in shifter mode alone leave the same flags, take the
same branch and latch the same address. -/
def Obligations.FlagsIgnoreTheShifter : Prop :=
  ∀ (op : AluOp) (sh sh' : ShiftMode) (q : MemReq) (f : Fields) (s t t' : State),
    exec (.datapath op sh q f) s = .next t → exec (.datapath op sh' q f) s = .next t' →
    t.z = t'.z ∧ t.n = t'.n ∧ t.bt = t'.bt ∧ t.mpc = t'.mpc ∧ t.mar = t'.mar

/-! ## The cycle -/

/-- R210 to R213: when the line at `mpc` of the loaded control store decodes to i, a step of the Running machine clears
the flags, increments `mpc`, and is exec of i on the state that leaves. -/
def Obligations.StepRunsTheDecodedInstruction : Prop :=
  ∀ (lines : List Line) (line : Line) (i : Instr) (s : State),
    loadControlStore lines = .ok s.cs → s.runState = .running →
    lines[s.mpc.toNat]? = some line → decode line = .ok i →
    i.wellFormed = true ∧
    step s = exec i { s with z := false, n := false, bt := false, mpc := s.mpc + 1 } ∧
    (s.mpc + 1).toNat = s.mpc.toNat + 1

/-- R216: the next `mpc` is `ADDR` zero-extended if the branch is taken on the flags of this same cycle, and otherwise the
incremented value; `bt` says which. `COND` 0 never branches, 1 on negative, 2 on zero, 3 always. -/
def Obligations.BranchOnFlagsOfSameCycle : Prop :=
  ∀ (op : AluOp) (sh : ShiftMode) (q : MemReq) (f : Fields) (s t : State),
    s.cs[s.mpc.toNat]? = some (.datapath op sh q f) → step s = .next t →
    (f.cond = .never → t.bt = false) ∧ (f.cond = .jn → t.bt = t.n) ∧
    (f.cond = .jz → t.bt = t.z) ∧ (f.cond = .jmp → t.bt = true) ∧
    t.mpc = if t.bt then f.addr.setWidth 9 else s.mpc + 1

/-- R31: the flags carry nothing from one cycle to the next: a step does not depend on the flags it finds. -/
def Obligations.FlagsCarryNothingOver : Prop :=
  ∀ (s : State) (z n bt : Bool), s.runState = .running → step { s with z := z, n := n, bt := bt } = step s

/-- R103: a don't-care field changes nothing: `A` when `AMUX` = 1, `C` when `ENC` = 0, `ADDR` when `COND` = 0, `B` for
`PASS` and `INV` when `MAR` = 0. -/
def Obligations.DontCareFieldsChangeNothing : Prop :=
  ∀ (op : AluOp) (sh : ShiftMode) (q : MemReq) (f : Fields) (s : State) (x : BusCode) (t : BitVec 8),
    (f.amux = true → exec (.datapath op sh q { f with a := x }) s = exec (.datapath op sh q f) s) ∧
    (f.enc = false → exec (.datapath op sh q { f with c := x }) s = exec (.datapath op sh q f) s) ∧
    (f.cond = .never → exec (.datapath op sh q { f with addr := t }) s = exec (.datapath op sh q f) s) ∧
    (op = .pass ∨ op = .inv → f.mar = false →
      exec (.datapath op sh q { f with b := x }) s = exec (.datapath op sh q f) s)

/-- R106: the all-zero word is `ADD` of `PC` to itself, and its cycle changes `mpc` and the flags alone. -/
def Obligations.AllZeroWordOnlyMovesOn : Prop :=
  ∃ i, decodeWord 0#32 = .ok i ∧
    ∀ s : State, s.runState = .running → s.cs[s.mpc.toNat]? = some i →
      step s = .next { s with mpc := s.mpc + 1, z := decide (s.regs.pc + s.regs.pc = 0#16),
                              n := decide (s.regs.pc.toInt < 0), bt := false }

/-- R228: the cycle is total: a Running machine whose control store was loaded always has a next state. -/
def Obligations.RunningMachineAlwaysSteps : Prop :=
  ∀ s : State, csWellFormed s.cs = true → s.runState = .running → ∃ t, step s = .next t

/-! ## Memory -/

/-- R244: a read request does what the same microinstruction without it does, and then: in bounds `mbr` receives the
addressed word; out of bounds it is a MemoryFault with `mar`, neither `mbr` nor memory changed by it, and everything
steps 1 to 11 did still done. -/
def Obligations.ReadRequestLoadsOrFaults : Prop :=
  ∀ (op : AluOp) (sh : ShiftMode) (f : Fields) (s : State), ∃ u,
    exec (.datapath op sh .none f) s = .next u ∧ u.mar = s.accessAddr f ∧
    (u.mar.toNat < s.cfg.memSize →
      exec (.datapath op sh .rd f) s = .next { u with mbr := s.mem.read u.mar.toNat }) ∧
    (s.cfg.memSize ≤ u.mar.toNat →
      exec (.datapath op sh .rd f) s = .next (faultedWith (.memoryFault u.mar) u))

/-- R246 (the fault is the spec's decision D8, log 8): a write request does what the same microinstruction without it does,
and then: in bounds the addressed cell receives `mbr` and no other cell changes; out of bounds it is a WriteFault with
`mar` and no cell changes. -/
def Obligations.WriteRequestStoresOrFaults : Prop :=
  ∀ (op : AluOp) (sh : ShiftMode) (f : Fields) (s : State), ∃ u,
    exec (.datapath op sh .none f) s = .next u ∧ u.mar = s.accessAddr f ∧
    (u.mar.toNat < s.cfg.memSize → s.mem.wf = true → ∃ m,
      exec (.datapath op sh .wr f) s = .next { u with mem := m } ∧ m.read u.mar.toNat = u.mbr ∧
      ∀ a, a ≠ u.mar.toNat → m.read a = s.mem.read a) ∧
    (s.cfg.memSize ≤ u.mar.toNat →
      exec (.datapath op sh .wr f) s = .next (faultedWith (.writeFault u.mar) u))

/-- R65: an in-bounds write form sets the one addressed cell and changes no other cell. -/
def Obligations.WriteSetsOneCell : Prop :=
  ∀ (op : AluOp) (sh : ShiftMode) (f : Fields) (s t : State), s.mem.wf = true →
    (s.accessAddr f).toNat < s.cfg.memSize → exec (.datapath op sh .wr f) s = .next t →
    ∀ a, t.mem.read a = if a = (s.accessAddr f).toNat then t.mbr else s.mem.read a

/-- R63, R73, R76: in one cycle at most the cell at the address `mar` ends with changes, and only a microinstruction with
`WR` changes it. -/
def Obligations.OneCellAtMostPerCycle : Prop :=
  ∀ (s t : State) (a : Nat), step s = .next t → t.mem.read a ≠ s.mem.read a →
    a = t.mar.toNat ∧ a < s.cfg.memSize ∧
    ∃ op sh f, s.cs[s.mpc.toNat]? = some (.datapath op sh .wr f)

/-! ## Faults and the end of a run -/

/-- R266: a read with `mar` outside program memory ends the run in Faulted with its record and one snapshot, and nothing is
executed past that point; the same `mar` with no request is no fault. What the record holds is the spec's decision D12
(log 12), what the snapshot holds D18 (log 18), and that a step of the Faulted machine answers machineFaulted is the
model's reading of "not execute any instruction past that point" (log 26). -/
def Obligations.MemoryFaultIsTerminal : Prop :=
  ∀ (op : AluOp) (sh : ShiftMode) (f : Fields) (s : State),
    s.cfg.memSize ≤ (s.accessAddr f).toNat →
    (∃ t, exec (.datapath op sh .rd f) s = .next t ∧ t.runState = .faulted ∧
      t.fault = some (.memoryFault (s.accessAddr f)) ∧
      t.dumps = s.dumps ++ [snapshotOf t (.memoryFault (s.accessAddr f))] ∧
      step t = .fault .machineFaulted) ∧
    ∃ t, exec (.datapath op sh .none f) s = .next t ∧ t.runState = s.runState ∧ t.fault = s.fault ∧
      t.dumps = s.dumps

/-- R268: a cycle that ends in Faulted has written the fault record and handed exactly one snapshot of the final state to the
sink, and no further cycle runs; a cycle that does not end there hands over none. That a step of the Faulted machine
answers machineFaulted is the model's reading of "no further cycle runs" (log 26). -/
def Obligations.FaultedTransition : Prop :=
  ∀ s t : State, step s = .next t →
    (t.runState = .faulted → ∃ r, t.fault = some r ∧ t.dumps = s.dumps ++ [snapshotOf t r] ∧
      step t = .fault .machineFaulted) ∧
    (t.runState ≠ .faulted → t.dumps = s.dumps ∧ t.fault = s.fault)

/-- R158, R269 (the spec's decision D6, log 6): a fetch outside the loaded range is an InternalFault: flags 0, `mpc` kept, no
register, latch or memory cell changed. -/
def Obligations.FetchOutsideStoreFaults : Prop :=
  ∀ s : State, s.runState = .running → s.cs.length ≤ s.mpc.toNat →
    step s = .next (faultedWith (.internalFault s.mpc) { s with z := false, n := false, bt := false })

/-- R265, R271 (WriteFault and InternalFault by the spec's decisions D8 and D6, logs 8 and 6): a cycle ends in Faulted exactly
when one of the three conditions of the table holds, and the record names the first of them in step order. -/
def Obligations.FaultsExactlyWhenListed : Prop :=
  ∀ s t : State, step s = .next t →
    (t.runState ≠ .faulted ↔ s.CannotFault) ∧
    (s.cs.length ≤ s.mpc.toNat → t.fault = some (.internalFault s.mpc)) ∧
    (∀ op sh f, s.cs[s.mpc.toNat]? = some (.datapath op sh .rd f) → t.runState = .faulted →
      t.fault = some (.memoryFault t.mar)) ∧
    (∀ op sh f, s.cs[s.mpc.toNat]? = some (.datapath op sh .wr f) → t.runState = .faulted →
      t.fault = some (.writeFault t.mar))

/-- R32: a run starts Running; the only transitions are Running to Halted, by the halt encoding, and Running to Faulted, by
a fault; and nothing leaves Halted or Faulted. That a step there answers machineHalted or machineFaulted is the model's
reading of "No cycle runs in Halted or Faulted" (log 26). -/
def Obligations.SequencerTransitions : Prop :=
  (∀ cfg v csLines programLines s, boot cfg v csLines programLines = .ok s → s.runState = .running) ∧
  (∀ s t : State, step s = .next t → s.runState = .running ∧
    (t.runState = .halted ↔ ∃ m alu f, s.cs[s.mpc.toNat]? = some (.halting m alu f)) ∧
    (t.runState = .faulted → ∃ r, t.fault = some r)) ∧
  ∀ s : State, (s.runState = .halted → step s = .fault .machineHalted) ∧
    (s.runState = .faulted → step s = .fault .machineFaulted)

/-! ## Invariants -/

/-- R6, R24, R33, R61, R62, R68: every step keeps the invariant: parameters in range, memory canonical and inside its size,
control store legal, `mpc` in 0 to 256 (D6, log 6), fault record and sink in agreement with the sequencer's state. -/
def Obligations.StepKeepsInvariant : Prop :=
  ∀ s t : State, s.Inv → step s = .next t → t.Inv

/-- The invariant holds of the model's reset state (its register values are the model's choice, logs 9 and 10; the
invariant does not depend on them). -/
def Obligations.ResetMeetsInvariant : Prop := State.reset.Inv

/-- R45, R291: the invariant holds of every machine the host can boot with parameters in range, whatever the free launch
values. -/
def Obligations.BootMeetsInvariant : Prop :=
  ∀ (cfg : Config) (v : LaunchValues) (csLines programLines : List Line) (s : State),
    cfg.wf = true → boot cfg v csLines programLines = .ok s → s.Inv

/-- R225, R265: a run in which every Running state it reaches has a loaded microinstruction at `mpc` and, if that requests an
access, an address in bounds never ends in Faulted. -/
def Obligations.RunWithoutCauseNeverFaults : Prop :=
  ∀ s : State, s.runState = .running →
    (∀ k t, Host.Core.run Sys2Proof.core k s = .next t → State.runState t = .running →
      State.CannotFault t) → SafeRun s

/-! ## The written form -/

/-- R109 (the notation is the spec's decision D16, log 16): what the notation accepts after an operation word is a
datapath microinstruction of that operation: never HALT and never an illegal word. -/
def Obligations.NotationGivesItsOperation : Prop :=
  ∀ (op : AluOp) (ms : List Modifier) (i : Instr), assembleDatapath op ms = some i →
    i.wellFormed = true ∧ ∃ sh q f, i = .datapath op sh q f

/-! ## What the load and the snapshot hold -/

/-- R78 (which end of a program line is which is the spec's decision D14, log 14): exactly the lines of 16 characters, each
'0' or '1', have a word, and the character at offset k is bit 15 - k of it. -/
def Obligations.ProgramLineSpellsItsWord : Prop :=
  (∀ line : Line, (∃ w, programWord line = some w) ↔ line.length = 16 ∧ ∀ c ∈ line, c = '0' ∨ c = '1') ∧
  ∀ (line : Line) (w : Word), programWord line = some w →
    ∀ k, k < 16 → w.getLsbD (15 - k) = ((line)[k]? == some '1')

/-- R79 (the refusal is the spec's decision D14, log 14): a program is loaded exactly when it has no more lines than memory
has cells and every line is 16 binary characters; otherwise no machine starts. -/
def Obligations.BadProgramIsRefused : Prop :=
  (∀ (cfg : Config) (lines : List Line), (∃ m, loadProgram cfg lines = .ok m) ↔
    lines.length ≤ cfg.memSize ∧ ∀ line ∈ lines, line.length = 16 ∧ ∀ c ∈ line, c = '0' ∨ c = '1') ∧
  ∀ (cfg : Config) (v : LaunchValues) (csLines programLines : List Line),
    ¬ (∃ m, loadProgram cfg programLines = .ok m) → ¬ ∃ s, boot cfg v csLines programLines = .ok s

/-- R44 (`mpc`, the flags and the fault record in it are the spec's decision D18, log 18): the snapshot a cycle that ends in
Faulted hands over holds the eleven registers, `mar`, `mbr`, `mpc`, the flags and the fault record of the final state, and
the word of every cell of program memory in address order; a cycle that ends in Halted hands over none. -/
def Obligations.SnapshotHoldsTheWholeState : Prop :=
  ∀ s t : State, step s = .next t →
    (t.runState = .faulted → ∃ d, t.dumps = s.dumps ++ [d] ∧
      d.regs.pc = t.regs.pc ∧ d.regs.ac = t.regs.ac ∧ d.regs.sp = t.regs.sp ∧ d.regs.ir = t.regs.ir ∧
      d.regs.tir = t.regs.tir ∧ d.regs.s0 = t.regs.s0 ∧ d.regs.s1 = t.regs.s1 ∧ d.regs.s2 = t.regs.s2 ∧
      d.regs.s3 = t.regs.s3 ∧ d.regs.s4 = t.regs.s4 ∧ d.regs.s5 = t.regs.s5 ∧
      d.mar = t.mar ∧ d.mbr = t.mbr ∧ d.mpc = t.mpc ∧ d.z = t.z ∧ d.n = t.n ∧ d.bt = t.bt ∧
      t.fault = some d.fault ∧ d.words.length = t.cfg.memSize ∧
      ∀ k, k < t.cfg.memSize → d.words[k]? = some (t.mem.read k)) ∧
    (t.runState = .halted → t.dumps = s.dumps)
end

