-- ==== Sys2Proof/Laws/State.lean ====
section
/-! SUPPORT. One lemma per field per named update of the state, each true by rfl. -/

namespace Sys2Proof.Machine.State

@[simp] theorem setRegs_cfg (s : State) (r : RegFile) : (s.setRegs r).cfg = s.cfg := rfl
@[simp] theorem setRegs_regs (s : State) (r : RegFile) : (s.setRegs r).regs = r := rfl
@[simp] theorem setRegs_mpc (s : State) (r : RegFile) : (s.setRegs r).mpc = s.mpc := rfl
@[simp] theorem setRegs_mar (s : State) (r : RegFile) : (s.setRegs r).mar = s.mar := rfl
@[simp] theorem setRegs_mbr (s : State) (r : RegFile) : (s.setRegs r).mbr = s.mbr := rfl
@[simp] theorem setRegs_z (s : State) (r : RegFile) : (s.setRegs r).z = s.z := rfl
@[simp] theorem setRegs_n (s : State) (r : RegFile) : (s.setRegs r).n = s.n := rfl
@[simp] theorem setRegs_bt (s : State) (r : RegFile) : (s.setRegs r).bt = s.bt := rfl
@[simp] theorem setRegs_runState (s : State) (r : RegFile) : (s.setRegs r).runState = s.runState := rfl
@[simp] theorem setRegs_fault (s : State) (r : RegFile) : (s.setRegs r).fault = s.fault := rfl
@[simp] theorem setRegs_mem (s : State) (r : RegFile) : (s.setRegs r).mem = s.mem := rfl
@[simp] theorem setRegs_cs (s : State) (r : RegFile) : (s.setRegs r).cs = s.cs := rfl
@[simp] theorem setRegs_dumps (s : State) (r : RegFile) : (s.setRegs r).dumps = s.dumps := rfl

@[simp] theorem setMpc_cfg (s : State) (t : Mpc) : (s.setMpc t).cfg = s.cfg := rfl
@[simp] theorem setMpc_regs (s : State) (t : Mpc) : (s.setMpc t).regs = s.regs := rfl
@[simp] theorem setMpc_mpc (s : State) (t : Mpc) : (s.setMpc t).mpc = t := rfl
@[simp] theorem setMpc_mar (s : State) (t : Mpc) : (s.setMpc t).mar = s.mar := rfl
@[simp] theorem setMpc_mbr (s : State) (t : Mpc) : (s.setMpc t).mbr = s.mbr := rfl
@[simp] theorem setMpc_z (s : State) (t : Mpc) : (s.setMpc t).z = s.z := rfl
@[simp] theorem setMpc_n (s : State) (t : Mpc) : (s.setMpc t).n = s.n := rfl
@[simp] theorem setMpc_bt (s : State) (t : Mpc) : (s.setMpc t).bt = s.bt := rfl
@[simp] theorem setMpc_runState (s : State) (t : Mpc) : (s.setMpc t).runState = s.runState := rfl
@[simp] theorem setMpc_fault (s : State) (t : Mpc) : (s.setMpc t).fault = s.fault := rfl
@[simp] theorem setMpc_mem (s : State) (t : Mpc) : (s.setMpc t).mem = s.mem := rfl
@[simp] theorem setMpc_cs (s : State) (t : Mpc) : (s.setMpc t).cs = s.cs := rfl
@[simp] theorem setMpc_dumps (s : State) (t : Mpc) : (s.setMpc t).dumps = s.dumps := rfl

@[simp] theorem setMar_cfg (s : State) (v : Word) : (s.setMar v).cfg = s.cfg := rfl
@[simp] theorem setMar_regs (s : State) (v : Word) : (s.setMar v).regs = s.regs := rfl
@[simp] theorem setMar_mpc (s : State) (v : Word) : (s.setMar v).mpc = s.mpc := rfl
@[simp] theorem setMar_mar (s : State) (v : Word) : (s.setMar v).mar = v := rfl
@[simp] theorem setMar_mbr (s : State) (v : Word) : (s.setMar v).mbr = s.mbr := rfl
@[simp] theorem setMar_z (s : State) (v : Word) : (s.setMar v).z = s.z := rfl
@[simp] theorem setMar_n (s : State) (v : Word) : (s.setMar v).n = s.n := rfl
@[simp] theorem setMar_bt (s : State) (v : Word) : (s.setMar v).bt = s.bt := rfl
@[simp] theorem setMar_runState (s : State) (v : Word) : (s.setMar v).runState = s.runState := rfl
@[simp] theorem setMar_fault (s : State) (v : Word) : (s.setMar v).fault = s.fault := rfl
@[simp] theorem setMar_mem (s : State) (v : Word) : (s.setMar v).mem = s.mem := rfl
@[simp] theorem setMar_cs (s : State) (v : Word) : (s.setMar v).cs = s.cs := rfl
@[simp] theorem setMar_dumps (s : State) (v : Word) : (s.setMar v).dumps = s.dumps := rfl

@[simp] theorem setMbr_cfg (s : State) (v : Word) : (s.setMbr v).cfg = s.cfg := rfl
@[simp] theorem setMbr_regs (s : State) (v : Word) : (s.setMbr v).regs = s.regs := rfl
@[simp] theorem setMbr_mpc (s : State) (v : Word) : (s.setMbr v).mpc = s.mpc := rfl
@[simp] theorem setMbr_mar (s : State) (v : Word) : (s.setMbr v).mar = s.mar := rfl
@[simp] theorem setMbr_mbr (s : State) (v : Word) : (s.setMbr v).mbr = v := rfl
@[simp] theorem setMbr_z (s : State) (v : Word) : (s.setMbr v).z = s.z := rfl
@[simp] theorem setMbr_n (s : State) (v : Word) : (s.setMbr v).n = s.n := rfl
@[simp] theorem setMbr_bt (s : State) (v : Word) : (s.setMbr v).bt = s.bt := rfl
@[simp] theorem setMbr_runState (s : State) (v : Word) : (s.setMbr v).runState = s.runState := rfl
@[simp] theorem setMbr_fault (s : State) (v : Word) : (s.setMbr v).fault = s.fault := rfl
@[simp] theorem setMbr_mem (s : State) (v : Word) : (s.setMbr v).mem = s.mem := rfl
@[simp] theorem setMbr_cs (s : State) (v : Word) : (s.setMbr v).cs = s.cs := rfl
@[simp] theorem setMbr_dumps (s : State) (v : Word) : (s.setMbr v).dumps = s.dumps := rfl

@[simp] theorem setFlags_cfg (s : State) (z n bt : Bool) : (s.setFlags z n bt).cfg = s.cfg := rfl
@[simp] theorem setFlags_regs (s : State) (z n bt : Bool) : (s.setFlags z n bt).regs = s.regs := rfl
@[simp] theorem setFlags_mpc (s : State) (z n bt : Bool) : (s.setFlags z n bt).mpc = s.mpc := rfl
@[simp] theorem setFlags_mar (s : State) (z n bt : Bool) : (s.setFlags z n bt).mar = s.mar := rfl
@[simp] theorem setFlags_mbr (s : State) (z n bt : Bool) : (s.setFlags z n bt).mbr = s.mbr := rfl
@[simp] theorem setFlags_z (s : State) (z n bt : Bool) : (s.setFlags z n bt).z = z := rfl
@[simp] theorem setFlags_n (s : State) (z n bt : Bool) : (s.setFlags z n bt).n = n := rfl
@[simp] theorem setFlags_bt (s : State) (z n bt : Bool) : (s.setFlags z n bt).bt = bt := rfl
@[simp] theorem setFlags_runState (s : State) (z n bt : Bool) : (s.setFlags z n bt).runState = s.runState := rfl
@[simp] theorem setFlags_fault (s : State) (z n bt : Bool) : (s.setFlags z n bt).fault = s.fault := rfl
@[simp] theorem setFlags_mem (s : State) (z n bt : Bool) : (s.setFlags z n bt).mem = s.mem := rfl
@[simp] theorem setFlags_cs (s : State) (z n bt : Bool) : (s.setFlags z n bt).cs = s.cs := rfl
@[simp] theorem setFlags_dumps (s : State) (z n bt : Bool) : (s.setFlags z n bt).dumps = s.dumps := rfl

@[simp] theorem setMem_cfg (s : State) (m : Memory) : (s.setMem m).cfg = s.cfg := rfl
@[simp] theorem setMem_regs (s : State) (m : Memory) : (s.setMem m).regs = s.regs := rfl
@[simp] theorem setMem_mpc (s : State) (m : Memory) : (s.setMem m).mpc = s.mpc := rfl
@[simp] theorem setMem_mar (s : State) (m : Memory) : (s.setMem m).mar = s.mar := rfl
@[simp] theorem setMem_mbr (s : State) (m : Memory) : (s.setMem m).mbr = s.mbr := rfl
@[simp] theorem setMem_z (s : State) (m : Memory) : (s.setMem m).z = s.z := rfl
@[simp] theorem setMem_n (s : State) (m : Memory) : (s.setMem m).n = s.n := rfl
@[simp] theorem setMem_bt (s : State) (m : Memory) : (s.setMem m).bt = s.bt := rfl
@[simp] theorem setMem_runState (s : State) (m : Memory) : (s.setMem m).runState = s.runState := rfl
@[simp] theorem setMem_fault (s : State) (m : Memory) : (s.setMem m).fault = s.fault := rfl
@[simp] theorem setMem_mem (s : State) (m : Memory) : (s.setMem m).mem = m := rfl
@[simp] theorem setMem_cs (s : State) (m : Memory) : (s.setMem m).cs = s.cs := rfl
@[simp] theorem setMem_dumps (s : State) (m : Memory) : (s.setMem m).dumps = s.dumps := rfl

@[simp] theorem setRunState_cfg (s : State) (r : RunState) (f : Option FaultRecord) : (s.setRunState r f).cfg = s.cfg := rfl
@[simp] theorem setRunState_regs (s : State) (r : RunState) (f : Option FaultRecord) : (s.setRunState r f).regs = s.regs := rfl
@[simp] theorem setRunState_mpc (s : State) (r : RunState) (f : Option FaultRecord) : (s.setRunState r f).mpc = s.mpc := rfl
@[simp] theorem setRunState_mar (s : State) (r : RunState) (f : Option FaultRecord) : (s.setRunState r f).mar = s.mar := rfl
@[simp] theorem setRunState_mbr (s : State) (r : RunState) (f : Option FaultRecord) : (s.setRunState r f).mbr = s.mbr := rfl
@[simp] theorem setRunState_z (s : State) (r : RunState) (f : Option FaultRecord) : (s.setRunState r f).z = s.z := rfl
@[simp] theorem setRunState_n (s : State) (r : RunState) (f : Option FaultRecord) : (s.setRunState r f).n = s.n := rfl
@[simp] theorem setRunState_bt (s : State) (r : RunState) (f : Option FaultRecord) : (s.setRunState r f).bt = s.bt := rfl
@[simp] theorem setRunState_runState (s : State) (r : RunState) (f : Option FaultRecord) : (s.setRunState r f).runState = r := rfl
@[simp] theorem setRunState_fault (s : State) (r : RunState) (f : Option FaultRecord) : (s.setRunState r f).fault = f := rfl
@[simp] theorem setRunState_mem (s : State) (r : RunState) (f : Option FaultRecord) : (s.setRunState r f).mem = s.mem := rfl
@[simp] theorem setRunState_cs (s : State) (r : RunState) (f : Option FaultRecord) : (s.setRunState r f).cs = s.cs := rfl
@[simp] theorem setRunState_dumps (s : State) (r : RunState) (f : Option FaultRecord) : (s.setRunState r f).dumps = s.dumps := rfl

@[simp] theorem addDump_cfg (s : State) (d : Snapshot) : (s.addDump d).cfg = s.cfg := rfl
@[simp] theorem addDump_regs (s : State) (d : Snapshot) : (s.addDump d).regs = s.regs := rfl
@[simp] theorem addDump_mpc (s : State) (d : Snapshot) : (s.addDump d).mpc = s.mpc := rfl
@[simp] theorem addDump_mar (s : State) (d : Snapshot) : (s.addDump d).mar = s.mar := rfl
@[simp] theorem addDump_mbr (s : State) (d : Snapshot) : (s.addDump d).mbr = s.mbr := rfl
@[simp] theorem addDump_z (s : State) (d : Snapshot) : (s.addDump d).z = s.z := rfl
@[simp] theorem addDump_n (s : State) (d : Snapshot) : (s.addDump d).n = s.n := rfl
@[simp] theorem addDump_bt (s : State) (d : Snapshot) : (s.addDump d).bt = s.bt := rfl
@[simp] theorem addDump_runState (s : State) (d : Snapshot) : (s.addDump d).runState = s.runState := rfl
@[simp] theorem addDump_fault (s : State) (d : Snapshot) : (s.addDump d).fault = s.fault := rfl
@[simp] theorem addDump_mem (s : State) (d : Snapshot) : (s.addDump d).mem = s.mem := rfl
@[simp] theorem addDump_cs (s : State) (d : Snapshot) : (s.addDump d).cs = s.cs := rfl
@[simp] theorem addDump_dumps (s : State) (d : Snapshot) : (s.addDump d).dumps = s.dumps ++ [d] := rfl

end Sys2Proof.Machine.State
end

