-- ==== Sys2Proof/Laws/Bus.lean ====
section
/-! SUPPORT. Laws of the bus codes: their numbering, and what a read sees after a write. -/

namespace Sys2Proof

@[simp] theorem BusCode.ofBits_toBits (c : BusCode) : BusCode.ofBits c.toBits = c := by cases c <;> rfl

@[simp] theorem Cond.ofBits_toBits (c : Cond) : Cond.ofBits c.toBits = c := by cases c <;> rfl

@[simp] theorem AluOp.ofBits_toBits (c : AluOp) : AluOp.ofBits c.toBits = c := by cases c <;> rfl

@[simp] theorem ShiftMode.ofBits_toBits (c : ShiftMode) : ShiftMode.ofBits c.toBits = some c := by
  cases c <;> rfl

@[simp] theorem bit_bitOf (b : Bool) : bit (bitOf b) = b := by cases b <;> rfl

namespace Machine

/-- The codes that name a register and not a constant (R20, R180). -/
def BusCode.writable : BusCode → Bool
  | .zero => false
  | .one => false
  | .minus1 => false
  | .amask => false
  | .smask => false
  | .pc => true
  | .ac => true
  | .sp => true
  | .ir => true
  | .tir => true
  | .s0 => true
  | .s1 => true
  | .s2 => true
  | .s3 => true
  | .s4 => true
  | .s5 => true

/-- A register write changes what its own code reads, and only if the code names a register. -/
theorem busRead_setRegs_write (s : State) (c d : BusCode) (v : Word) :
    busRead (s.setRegs (s.regs.write c v)) d =
      if d = c ∧ BusCode.writable c = true then v else busRead s d := by
  cases c <;> cases d <;> rfl

/-- A write to a constant code leaves the register file as it was. -/
theorem regs_write_constant (r : RegFile) {c : BusCode} (h : BusCode.writable c = false) (v : Word) :
    r.write c v = r := by
  cases c <;> first | rfl | cases h

/-- A bus read depends on the configuration and the registers alone. -/
theorem busRead_congr {s t : State} (hc : t.cfg = s.cfg) (hr : t.regs = s.regs) (c : BusCode) :
    busRead t c = busRead s c := by
  cases c <;> simp [busRead, hc, hr]

end Machine

end Sys2Proof
end

