-- ==== Sys2Proof/Laws/Datapath.lean ====
section
/-! SUPPORT. What the shared datapath operations do to each piece of state, said once: steps 4 to 11, and the
memory access of step 12. -/

namespace Sys2Proof.Machine

/-- The value `mar` holds after step 6 (R240). -/
def marAfter (f : Fields) (s : State) : Word := if f.mar then busRead s f.b else s.mar

/-- The shifter's output, the value of the C bus (R200). -/
def shiftedOf (op : AluOp) (sh : ShiftMode) (f : Fields) (s : State) : Word :=
  shift sh (aluResult op (aBus f s) (bBus f s))

section steps
variable (op : AluOp) (sh : ShiftMode) (f : Fields) (s : State)

theorem datapathSteps_regs : (datapathSteps op sh f s).regs =
    if f.enc then s.regs.write f.c (shiftedOf op sh f s) else s.regs := by
  simp only [datapathSteps, evalBranch, latchMbr, writeBack, latchMar, storeFlags, busWrite]
  split_ifs <;> rfl

theorem datapathSteps_mar : (datapathSteps op sh f s).mar = marAfter f s := by
  simp only [datapathSteps, evalBranch, latchMbr, writeBack, latchMar, storeFlags, busWrite, marAfter]
  split_ifs <;> rfl

theorem datapathSteps_mbr : (datapathSteps op sh f s).mbr =
    if f.mbr then shiftedOf op sh f s else s.mbr := by
  simp only [datapathSteps, evalBranch, latchMbr, writeBack, latchMar, storeFlags, busWrite]
  split_ifs <;> rfl

theorem datapathSteps_z : (datapathSteps op sh f s).z = aluZero op (aBus f s) (bBus f s) := by
  simp only [datapathSteps, evalBranch, latchMbr, writeBack, latchMar, storeFlags, busWrite]
  split_ifs <;> rfl

theorem datapathSteps_n : (datapathSteps op sh f s).n = aluNegative op (aBus f s) (bBus f s) := by
  simp only [datapathSteps, evalBranch, latchMbr, writeBack, latchMar, storeFlags, busWrite]
  split_ifs <;> rfl

/-- Step 11's decision, on the flags of the same cycle. -/
def takenOf (op : AluOp) (f : Fields) (s : State) : Bool :=
  branchTaken f.cond (aluZero op (aBus f s) (bBus f s)) (aluNegative op (aBus f s) (bBus f s))

/-- Step 11 on a state whose flags are known. -/
theorem evalBranch_eq {t : State} {z n : Bool} (hz : t.z = z) (hn : t.n = n) :
    evalBranch f t = if branchTaken f.cond z n then (t.setMpc (branchTarget f)).setFlags z n true else t := by
  subst hz hn; rfl

theorem datapathSteps_mpc : (datapathSteps op sh f s).mpc =
    if takenOf op f s then branchTarget f else s.mpc := by
  unfold datapathSteps takenOf
  rw [evalBranch_eq (z := aluZero op (aBus f s) (bBus f s)) (n := aluNegative op (aBus f s) (bBus f s))
    (hz := by simp only [latchMbr, writeBack, latchMar, storeFlags, busWrite]; split_ifs <;> rfl)
    (hn := by simp only [latchMbr, writeBack, latchMar, storeFlags, busWrite]; split_ifs <;> rfl)]
  simp only [latchMbr, writeBack, latchMar, storeFlags, busWrite]
  split_ifs <;> rfl

theorem datapathSteps_bt : (datapathSteps op sh f s).bt = (takenOf op f s || s.bt) := by
  unfold datapathSteps takenOf
  rw [evalBranch_eq (z := aluZero op (aBus f s) (bBus f s)) (n := aluNegative op (aBus f s) (bBus f s))
    (hz := by simp only [latchMbr, writeBack, latchMar, storeFlags, busWrite]; split_ifs <;> rfl)
    (hn := by simp only [latchMbr, writeBack, latchMar, storeFlags, busWrite]; split_ifs <;> rfl)]
  simp only [latchMbr, writeBack, latchMar, storeFlags, busWrite]
  split_ifs with h <;> simp [h]

/-- Steps 4 to 11 touch nothing of the configuration, the sequencer's state, memory, the control store and the
sink. -/
theorem datapathSteps_rest : (datapathSteps op sh f s).cfg = s.cfg ∧
    (datapathSteps op sh f s).runState = s.runState ∧ (datapathSteps op sh f s).fault = s.fault ∧
    (datapathSteps op sh f s).mem = s.mem ∧ (datapathSteps op sh f s).cs = s.cs ∧
    (datapathSteps op sh f s).dumps = s.dumps := by
  simp only [datapathSteps, evalBranch, latchMbr, writeBack, latchMar, storeFlags, busWrite]
  split_ifs <;> exact ⟨rfl, rfl, rfl, rfl, rfl, rfl⟩

end steps

/-- Everything step 12 can do (R244, R246, R248). -/
theorem memAccess_cases (q : MemReq) (s : State) :
    (q = .none ∧ memAccess q s = s) ∨
    (q = .rd ∧ s.mar.toNat < s.cfg.memSize ∧ memAccess q s = s.setMbr (s.mem.read s.mar.toNat)) ∨
    (q = .rd ∧ s.cfg.memSize ≤ s.mar.toNat ∧ memAccess q s = raiseFault (.memoryFault s.mar) s) ∨
    (q = .wr ∧ s.mar.toNat < s.cfg.memSize ∧
      memAccess q s = s.setMem (s.mem.write s.mar.toNat s.mbr)) ∨
    (q = .wr ∧ s.cfg.memSize ≤ s.mar.toNat ∧ memAccess q s = raiseFault (.writeFault s.mar) s) := by
  cases q with
  | none => exact .inl ⟨rfl, rfl⟩
  | rd =>
    rcases Nat.lt_or_ge s.mar.toNat s.cfg.memSize with h | h
    · exact .inr (.inl ⟨rfl, h, by simp [memAccess, memPort, inBounds, memRead, h]⟩)
    · exact .inr (.inr (.inl ⟨rfl, h, by simp [memAccess, memPort, inBounds, Nat.not_lt.2 h]⟩))
  | wr =>
    rcases Nat.lt_or_ge s.mar.toNat s.cfg.memSize with h | h
    · exact .inr (.inr (.inr (.inl ⟨rfl, h, by simp [memAccess, memPort, inBounds, memWrite, h]⟩)))
    · exact .inr (.inr (.inr (.inr ⟨rfl, h, by simp [memAccess, memPort, inBounds, Nat.not_lt.2 h]⟩)))

end Sys2Proof.Machine
end

