-- ==== Sys2Proof/Laws/Memory.lean ====
section
/-! SUPPORT. Laws of program memory: read after write, and the canonical form kept by every operation. -/

namespace Sys2Proof.Machine

theorem Memory.wfFrom_mono {lo hi : Nat} {m : Memory} (h : hi ≤ lo) (w : Memory.wfFrom lo m = true) :
    Memory.wfFrom hi m = true := by
  cases m with
  | nil => rfl
  | cons c rest =>
    simp only [Memory.wfFrom, Bool.and_eq_true, decide_eq_true_eq] at w ⊢
    exact ⟨⟨h.trans w.1.1, w.1.2⟩, w.2⟩

/-- A cell below everything listed reads as the sentinel. -/
theorem Memory.read_below {lo : Nat} {m : Memory} (w : Memory.wfFrom lo m = true) {a : Nat} (h : a < lo) :
    m.read a = unlisted := by
  induction m generalizing lo with
  | nil => rfl
  | cons c rest ih =>
    simp only [Memory.wfFrom, Bool.and_eq_true, decide_eq_true_eq] at w
    simp only [Memory.read, if_neg (show c.1 ≠ a by omega)]
    exact ih w.2 (by omega)

/-- A write leaves every other cell as it was, on any list. -/
theorem Memory.read_write_of_ne (m : Memory) {a b : Nat} (v : Word) (h : b ≠ a) :
    (m.write a v).read b = m.read b := by
  induction m with
  | nil => by_cases hv : v = unlisted <;> simp [Memory.write, Memory.read, hv, h.symm]
  | cons c rest ih =>
    obtain ⟨k, w⟩ := c
    simp only [Memory.write]
    split
    · by_cases hk : k = b <;> simp [Memory.read, hk, ih]
    · split
      · subst_vars
        split <;> simp [Memory.read, h.symm]
      · split <;> simp [Memory.read, h.symm]

/-- The cell written holds the value, on a canonical memory. -/
theorem Memory.read_write_self {lo : Nat} {m : Memory} (w : Memory.wfFrom lo m = true) (a : Nat) (v : Word) :
    (m.write a v).read a = v := by
  induction m generalizing lo with
  | nil => by_cases hv : v = unlisted <;> simp [Memory.write, Memory.read, hv]
  | cons c rest ih =>
    obtain ⟨k, x⟩ := c
    simp only [Memory.wfFrom, Bool.and_eq_true, decide_eq_true_eq] at w
    simp only [Memory.write]
    split
    · simp [Memory.read, (show k ≠ a by omega), ih w.2]
    · split
      · split
        · subst_vars; exact Memory.read_below w.2 (by omega)
        · simp [Memory.read]
      · split
        · subst_vars
          simp only [Memory.read, if_neg (show k ≠ a by omega)]
          exact Memory.read_below w.2 (by omega)
        · simp [Memory.read]

theorem Memory.write_wfFrom {lo : Nat} {m : Memory} (w : Memory.wfFrom lo m = true) {a : Nat} (h : lo ≤ a)
    (v : Word) : Memory.wfFrom lo (m.write a v) = true := by
  induction m generalizing lo with
  | nil => by_cases hv : v = unlisted <;> simp [Memory.write, Memory.wfFrom, hv, h]
  | cons c rest ih =>
    obtain ⟨k, x⟩ := c
    simp only [Memory.wfFrom, Bool.and_eq_true, decide_eq_true_eq] at w
    simp only [Memory.write]
    split
    · simpa [Memory.wfFrom, w.1] using ih w.2 (by omega)
    · split
      · subst_vars
        split
        · exact Memory.wfFrom_mono (by omega) w.2
        · simpa [Memory.wfFrom, h, ‹¬v = unlisted›] using w.2
      · split
        · simpa [Memory.wfFrom] using w
        · have : a + 1 ≤ k := by omega
          simp [Memory.wfFrom, h, ‹¬v = unlisted›, this, w.1.2, w.2]

/-- A write keeps the canonical form. -/
theorem Memory.write_wf {m : Memory} (w : m.wf = true) (a : Nat) (v : Word) : (m.write a v).wf = true :=
  Memory.write_wfFrom w (Nat.zero_le a) v

/-- A cell listed after a write was listed before, or is the one written. -/
theorem Memory.mem_write {m : Memory} {a : Nat} {v : Word} {c : Nat × Word} (h : c ∈ m.write a v) :
    c = (a, v) ∨ c ∈ m := by
  induction m with
  | nil =>
    simp only [Memory.write] at h
    split at h <;> simp_all
  | cons d rest ih =>
    simp only [Memory.write] at h
    split at h
    · rcases List.mem_cons.1 h with rfl | h
      · simp
      · exact (ih h).imp_right (List.mem_cons_of_mem _)
    · split at h <;> split at h <;> simp only [List.mem_cons] at h ⊢ <;> tauto

/-- A write inside the memory keeps every listed address inside it. -/
theorem Memory.write_within {m : Memory} {size : Nat} (w : m.within size = true) {a : Nat} (h : a < size)
    (v : Word) : (m.write a v).within size = true := by
  simp only [Memory.within, List.all_eq_true, decide_eq_true_eq] at w ⊢
  intro c hc
  rcases Memory.mem_write hc with rfl | hm
  · exact h
  · exact w c hm

/-- The load gives a canonical memory. -/
theorem memoryFrom_wfFrom (a : Nat) (ws : List Word) : Memory.wfFrom a (memoryFrom a ws) = true := by
  induction ws generalizing a with
  | nil => rfl
  | cons w ws ih =>
    simp only [memoryFrom]
    split
    · exact Memory.wfFrom_mono (Nat.le_succ a) (ih (a + 1))
    · simp [Memory.wfFrom, *]

/-- The load lists no address at or past the end of its words. -/
theorem memoryFrom_within (a : Nat) (ws : List Word) :
    (memoryFrom a ws).within (a + ws.length) = true := by
  induction ws generalizing a with
  | nil => rfl
  | cons w ws ih =>
    have h := ih (a + 1)
    simp only [memoryFrom, List.length_cons]
    rw [show a + 1 + ws.length = a + (ws.length + 1) by omega] at h
    split
    · exact h
    · simp only [Memory.within, List.all_cons, Bool.and_eq_true, decide_eq_true_eq]
      exact ⟨by omega, h⟩

/-- A snapshot's words are one for each cell. -/
@[simp] theorem Snapshot.words_length (d : Snapshot) : d.words.length = d.memSize := by
  simp [Snapshot.words]

/-- A snapshot's word at an index of memory is the cell's. -/
theorem Snapshot.words_getElem? (d : Snapshot) {k : Nat} (h : k < d.memSize) :
    d.words[k]? = some (d.mem.read k) := by
  simp [Snapshot.words, h]

theorem reset_mem_wf : State.reset.mem.wf = true := rfl

end Sys2Proof.Machine
end

