-- ==== Sys2Proof/Laws/PerInstr.lean ====
section
/-! SUPPORT. Per-instruction family RowMatch: the word of a microinstruction falls in the row of the opcode table
that bears its mnemonic (R111). -/

namespace Sys2Proof.Laws

/-- The four fields the rows of the table fix, in place. -/
def fixedBits (alu sh : BitVec 2) (rd wr : BitVec 1) : MicroWord :=
  (alu.setWidth 32 <<< 27) ||| (sh.setWidth 32 <<< 25) ||| (rd.setWidth 32 <<< 22) |||
    (wr.setWidth 32 <<< 21)

/-- The datapath mask keeps exactly `ALU`, `SH`, `RD`, `WR` of an encoded record. -/
theorem encodeWord_and_mask (r : Record) :
    encodeWord r &&& 0x1E600000#32 = fixedBits r.alu r.sh r.rd r.wr := by
  apply BitVec.eq_of_getLsbD_eq
  intro i hi
  interval_cases i <;> simp [encodeWord, fixedBits]

/-- Any smaller mask sees of an encoded record only what the datapath mask keeps. -/
theorem encodeWord_and_of_le (r : Record) {mask : MicroWord} (h : 0x1E600000#32 &&& mask = mask) :
    encodeWord r &&& mask = fixedBits r.alu r.sh r.rd r.wr &&& mask := by
  rw [← encodeWord_and_mask, BitVec.and_assoc, h]

namespace RowMatch

/-- The table has a row with the microinstruction's mnemonic, and its word has that row's fixed bits. -/
def Statement (i : Instr) : Prop :=
  ∃ row ∈ opcodeTable, row.mnemonic = i.mnemonic ∧ encode i &&& row.mask = row.value

/-- The row of a record is decided by the four fields the table fixes. -/
theorem of_fixed {i : Instr} {f : Fields} {alu sh : BitVec 2} {rd wr : BitVec 1} (row : Row)
    (hi : i.toRecord = f.record alu sh rd wr) (hn : row.mnemonic = i.mnemonic)
    (hmem : row ∈ opcodeTable) (hmask : 0x1E600000#32 &&& row.mask = row.mask)
    (hv : fixedBits alu sh rd wr &&& row.mask = row.value) : Statement i :=
  ⟨row, hmem, hn, by rw [encode, encodeWord_and_of_le _ hmask, hi]; exact hv⟩

theorem illegal (alu : AluOp) (rd wr : Bool) (f : Fields) : Statement (.illegal alu rd wr f) :=
  of_fixed ⟨"ILLEGAL", 0x06000000#32, 0x06000000#32⟩ rfl rfl (by decide) (by decide)
    (by cases alu <;> cases rd <;> cases wr <;> decide)

theorem halt (alu : AluOp) (f : Fields) : Statement (.halt alu f) :=
  of_fixed ⟨"HALT", 0x00600000#32, 0x06600000#32⟩ rfl rfl (by decide) (by decide) (by cases alu <;> decide)

theorem haltSh1 (alu : AluOp) (f : Fields) : Statement (.haltSh1 alu f) :=
  of_fixed ⟨"HALT.SH1", 0x02600000#32, 0x06600000#32⟩ rfl rfl (by decide) (by decide) (by cases alu <;> decide)

theorem haltSh2 (alu : AluOp) (f : Fields) : Statement (.haltSh2 alu f) :=
  of_fixed ⟨"HALT.SH2", 0x04600000#32, 0x06600000#32⟩ rfl rfl (by decide) (by decide) (by cases alu <;> decide)

theorem add (f : Fields) : Statement (.add f) :=
  of_fixed ⟨"ADD", 0x00000000#32, 0x1E600000#32⟩ rfl rfl (by decide) (by decide) (by decide)

theorem addRd (f : Fields) : Statement (.addRd f) :=
  of_fixed ⟨"ADD.RD", 0x00400000#32, 0x1E600000#32⟩ rfl rfl (by decide) (by decide) (by decide)

theorem addWr (f : Fields) : Statement (.addWr f) :=
  of_fixed ⟨"ADD.WR", 0x00200000#32, 0x1E600000#32⟩ rfl rfl (by decide) (by decide) (by decide)

theorem addRsh (f : Fields) : Statement (.addRsh f) :=
  of_fixed ⟨"ADD.RSH", 0x02000000#32, 0x1E600000#32⟩ rfl rfl (by decide) (by decide) (by decide)

theorem addRshRd (f : Fields) : Statement (.addRshRd f) :=
  of_fixed ⟨"ADD.RSH.RD", 0x02400000#32, 0x1E600000#32⟩ rfl rfl (by decide) (by decide) (by decide)

theorem addRshWr (f : Fields) : Statement (.addRshWr f) :=
  of_fixed ⟨"ADD.RSH.WR", 0x02200000#32, 0x1E600000#32⟩ rfl rfl (by decide) (by decide) (by decide)

theorem addLsh (f : Fields) : Statement (.addLsh f) :=
  of_fixed ⟨"ADD.LSH", 0x04000000#32, 0x1E600000#32⟩ rfl rfl (by decide) (by decide) (by decide)

theorem addLshRd (f : Fields) : Statement (.addLshRd f) :=
  of_fixed ⟨"ADD.LSH.RD", 0x04400000#32, 0x1E600000#32⟩ rfl rfl (by decide) (by decide) (by decide)

theorem addLshWr (f : Fields) : Statement (.addLshWr f) :=
  of_fixed ⟨"ADD.LSH.WR", 0x04200000#32, 0x1E600000#32⟩ rfl rfl (by decide) (by decide) (by decide)

theorem and (f : Fields) : Statement (.and f) :=
  of_fixed ⟨"AND", 0x08000000#32, 0x1E600000#32⟩ rfl rfl (by decide) (by decide) (by decide)

theorem andRd (f : Fields) : Statement (.andRd f) :=
  of_fixed ⟨"AND.RD", 0x08400000#32, 0x1E600000#32⟩ rfl rfl (by decide) (by decide) (by decide)

theorem andWr (f : Fields) : Statement (.andWr f) :=
  of_fixed ⟨"AND.WR", 0x08200000#32, 0x1E600000#32⟩ rfl rfl (by decide) (by decide) (by decide)

theorem andRsh (f : Fields) : Statement (.andRsh f) :=
  of_fixed ⟨"AND.RSH", 0x0A000000#32, 0x1E600000#32⟩ rfl rfl (by decide) (by decide) (by decide)

theorem andRshRd (f : Fields) : Statement (.andRshRd f) :=
  of_fixed ⟨"AND.RSH.RD", 0x0A400000#32, 0x1E600000#32⟩ rfl rfl (by decide) (by decide) (by decide)

theorem andRshWr (f : Fields) : Statement (.andRshWr f) :=
  of_fixed ⟨"AND.RSH.WR", 0x0A200000#32, 0x1E600000#32⟩ rfl rfl (by decide) (by decide) (by decide)

theorem andLsh (f : Fields) : Statement (.andLsh f) :=
  of_fixed ⟨"AND.LSH", 0x0C000000#32, 0x1E600000#32⟩ rfl rfl (by decide) (by decide) (by decide)

theorem andLshRd (f : Fields) : Statement (.andLshRd f) :=
  of_fixed ⟨"AND.LSH.RD", 0x0C400000#32, 0x1E600000#32⟩ rfl rfl (by decide) (by decide) (by decide)

theorem andLshWr (f : Fields) : Statement (.andLshWr f) :=
  of_fixed ⟨"AND.LSH.WR", 0x0C200000#32, 0x1E600000#32⟩ rfl rfl (by decide) (by decide) (by decide)

theorem pass (f : Fields) : Statement (.pass f) :=
  of_fixed ⟨"PASS", 0x10000000#32, 0x1E600000#32⟩ rfl rfl (by decide) (by decide) (by decide)

theorem passRd (f : Fields) : Statement (.passRd f) :=
  of_fixed ⟨"PASS.RD", 0x10400000#32, 0x1E600000#32⟩ rfl rfl (by decide) (by decide) (by decide)

theorem passWr (f : Fields) : Statement (.passWr f) :=
  of_fixed ⟨"PASS.WR", 0x10200000#32, 0x1E600000#32⟩ rfl rfl (by decide) (by decide) (by decide)

theorem passRsh (f : Fields) : Statement (.passRsh f) :=
  of_fixed ⟨"PASS.RSH", 0x12000000#32, 0x1E600000#32⟩ rfl rfl (by decide) (by decide) (by decide)

theorem passRshRd (f : Fields) : Statement (.passRshRd f) :=
  of_fixed ⟨"PASS.RSH.RD", 0x12400000#32, 0x1E600000#32⟩ rfl rfl (by decide) (by decide) (by decide)

theorem passRshWr (f : Fields) : Statement (.passRshWr f) :=
  of_fixed ⟨"PASS.RSH.WR", 0x12200000#32, 0x1E600000#32⟩ rfl rfl (by decide) (by decide) (by decide)

theorem passLsh (f : Fields) : Statement (.passLsh f) :=
  of_fixed ⟨"PASS.LSH", 0x14000000#32, 0x1E600000#32⟩ rfl rfl (by decide) (by decide) (by decide)

theorem passLshRd (f : Fields) : Statement (.passLshRd f) :=
  of_fixed ⟨"PASS.LSH.RD", 0x14400000#32, 0x1E600000#32⟩ rfl rfl (by decide) (by decide) (by decide)

theorem passLshWr (f : Fields) : Statement (.passLshWr f) :=
  of_fixed ⟨"PASS.LSH.WR", 0x14200000#32, 0x1E600000#32⟩ rfl rfl (by decide) (by decide) (by decide)

theorem inv (f : Fields) : Statement (.inv f) :=
  of_fixed ⟨"INV", 0x18000000#32, 0x1E600000#32⟩ rfl rfl (by decide) (by decide) (by decide)

theorem invRd (f : Fields) : Statement (.invRd f) :=
  of_fixed ⟨"INV.RD", 0x18400000#32, 0x1E600000#32⟩ rfl rfl (by decide) (by decide) (by decide)

theorem invWr (f : Fields) : Statement (.invWr f) :=
  of_fixed ⟨"INV.WR", 0x18200000#32, 0x1E600000#32⟩ rfl rfl (by decide) (by decide) (by decide)

theorem invRsh (f : Fields) : Statement (.invRsh f) :=
  of_fixed ⟨"INV.RSH", 0x1A000000#32, 0x1E600000#32⟩ rfl rfl (by decide) (by decide) (by decide)

theorem invRshRd (f : Fields) : Statement (.invRshRd f) :=
  of_fixed ⟨"INV.RSH.RD", 0x1A400000#32, 0x1E600000#32⟩ rfl rfl (by decide) (by decide) (by decide)

theorem invRshWr (f : Fields) : Statement (.invRshWr f) :=
  of_fixed ⟨"INV.RSH.WR", 0x1A200000#32, 0x1E600000#32⟩ rfl rfl (by decide) (by decide) (by decide)

theorem invLsh (f : Fields) : Statement (.invLsh f) :=
  of_fixed ⟨"INV.LSH", 0x1C000000#32, 0x1E600000#32⟩ rfl rfl (by decide) (by decide) (by decide)

theorem invLshRd (f : Fields) : Statement (.invLshRd f) :=
  of_fixed ⟨"INV.LSH.RD", 0x1C400000#32, 0x1E600000#32⟩ rfl rfl (by decide) (by decide) (by decide)

theorem invLshWr (f : Fields) : Statement (.invLshWr f) :=
  of_fixed ⟨"INV.LSH.WR", 0x1C200000#32, 0x1E600000#32⟩ rfl rfl (by decide) (by decide) (by decide)

end RowMatch

end Sys2Proof.Laws
end

