-- ==== Sys2Proof/Laws/Step.lean ====
section
/-! SUPPORT. Everything a step can do: the inversion lemmas from which the claims about steps start. -/

namespace Sys2Proof.Machine

theorem exec_datapath (op : AluOp) (sh : ShiftMode) (q : MemReq) (f : Fields) (s : State) :
    exec (.datapath op sh q f) s = .next (datapath op sh q f s) := by
  cases op <;> cases sh <;> cases q <;> rfl

theorem exec_halting (m : ShiftMode) (alu : AluOp) (f : Fields) (s : State) :
    exec (.halting m alu f) s = .next (enterHalted s) := by
  cases m <;> rfl

/-- Every microinstruction is of one of the three classes (R98). -/
theorem instr_cases (i : Instr) :
    (∃ alu rd wr f, i = .illegal alu rd wr f) ∨ (∃ m alu f, i = .halting m alu f) ∨
    ∃ op sh q f, i = .datapath op sh q f := by
  cases i with
  | illegal alu rd wr f => exact .inl ⟨alu, rd, wr, f, rfl⟩
  | halt alu f => exact .inr (.inl ⟨.none, alu, f, rfl⟩)
  | haltSh1 alu f => exact .inr (.inl ⟨.rsh, alu, f, rfl⟩)
  | haltSh2 alu f => exact .inr (.inl ⟨.lsh, alu, f, rfl⟩)
  | add f => exact .inr (.inr ⟨.add, .none, .none, f, rfl⟩)
  | addRd f => exact .inr (.inr ⟨.add, .none, .rd, f, rfl⟩)
  | addWr f => exact .inr (.inr ⟨.add, .none, .wr, f, rfl⟩)
  | addRsh f => exact .inr (.inr ⟨.add, .rsh, .none, f, rfl⟩)
  | addRshRd f => exact .inr (.inr ⟨.add, .rsh, .rd, f, rfl⟩)
  | addRshWr f => exact .inr (.inr ⟨.add, .rsh, .wr, f, rfl⟩)
  | addLsh f => exact .inr (.inr ⟨.add, .lsh, .none, f, rfl⟩)
  | addLshRd f => exact .inr (.inr ⟨.add, .lsh, .rd, f, rfl⟩)
  | addLshWr f => exact .inr (.inr ⟨.add, .lsh, .wr, f, rfl⟩)
  | and f => exact .inr (.inr ⟨.and, .none, .none, f, rfl⟩)
  | andRd f => exact .inr (.inr ⟨.and, .none, .rd, f, rfl⟩)
  | andWr f => exact .inr (.inr ⟨.and, .none, .wr, f, rfl⟩)
  | andRsh f => exact .inr (.inr ⟨.and, .rsh, .none, f, rfl⟩)
  | andRshRd f => exact .inr (.inr ⟨.and, .rsh, .rd, f, rfl⟩)
  | andRshWr f => exact .inr (.inr ⟨.and, .rsh, .wr, f, rfl⟩)
  | andLsh f => exact .inr (.inr ⟨.and, .lsh, .none, f, rfl⟩)
  | andLshRd f => exact .inr (.inr ⟨.and, .lsh, .rd, f, rfl⟩)
  | andLshWr f => exact .inr (.inr ⟨.and, .lsh, .wr, f, rfl⟩)
  | pass f => exact .inr (.inr ⟨.pass, .none, .none, f, rfl⟩)
  | passRd f => exact .inr (.inr ⟨.pass, .none, .rd, f, rfl⟩)
  | passWr f => exact .inr (.inr ⟨.pass, .none, .wr, f, rfl⟩)
  | passRsh f => exact .inr (.inr ⟨.pass, .rsh, .none, f, rfl⟩)
  | passRshRd f => exact .inr (.inr ⟨.pass, .rsh, .rd, f, rfl⟩)
  | passRshWr f => exact .inr (.inr ⟨.pass, .rsh, .wr, f, rfl⟩)
  | passLsh f => exact .inr (.inr ⟨.pass, .lsh, .none, f, rfl⟩)
  | passLshRd f => exact .inr (.inr ⟨.pass, .lsh, .rd, f, rfl⟩)
  | passLshWr f => exact .inr (.inr ⟨.pass, .lsh, .wr, f, rfl⟩)
  | inv f => exact .inr (.inr ⟨.inv, .none, .none, f, rfl⟩)
  | invRd f => exact .inr (.inr ⟨.inv, .none, .rd, f, rfl⟩)
  | invWr f => exact .inr (.inr ⟨.inv, .none, .wr, f, rfl⟩)
  | invRsh f => exact .inr (.inr ⟨.inv, .rsh, .none, f, rfl⟩)
  | invRshRd f => exact .inr (.inr ⟨.inv, .rsh, .rd, f, rfl⟩)
  | invRshWr f => exact .inr (.inr ⟨.inv, .rsh, .wr, f, rfl⟩)
  | invLsh f => exact .inr (.inr ⟨.inv, .lsh, .none, f, rfl⟩)
  | invLshRd f => exact .inr (.inr ⟨.inv, .lsh, .rd, f, rfl⟩)
  | invLshWr f => exact .inr (.inr ⟨.inv, .lsh, .wr, f, rfl⟩)

/-- The parts of a datapath microinstruction. -/
def datapathParts : Instr → Option (AluOp × ShiftMode × MemReq × Fields)
  | .illegal _ _ _ _ => none
  | .halt _ _ => none
  | .haltSh1 _ _ => none
  | .haltSh2 _ _ => none
  | .add f => some (.add, .none, .none, f)
  | .addRd f => some (.add, .none, .rd, f)
  | .addWr f => some (.add, .none, .wr, f)
  | .addRsh f => some (.add, .rsh, .none, f)
  | .addRshRd f => some (.add, .rsh, .rd, f)
  | .addRshWr f => some (.add, .rsh, .wr, f)
  | .addLsh f => some (.add, .lsh, .none, f)
  | .addLshRd f => some (.add, .lsh, .rd, f)
  | .addLshWr f => some (.add, .lsh, .wr, f)
  | .and f => some (.and, .none, .none, f)
  | .andRd f => some (.and, .none, .rd, f)
  | .andWr f => some (.and, .none, .wr, f)
  | .andRsh f => some (.and, .rsh, .none, f)
  | .andRshRd f => some (.and, .rsh, .rd, f)
  | .andRshWr f => some (.and, .rsh, .wr, f)
  | .andLsh f => some (.and, .lsh, .none, f)
  | .andLshRd f => some (.and, .lsh, .rd, f)
  | .andLshWr f => some (.and, .lsh, .wr, f)
  | .pass f => some (.pass, .none, .none, f)
  | .passRd f => some (.pass, .none, .rd, f)
  | .passWr f => some (.pass, .none, .wr, f)
  | .passRsh f => some (.pass, .rsh, .none, f)
  | .passRshRd f => some (.pass, .rsh, .rd, f)
  | .passRshWr f => some (.pass, .rsh, .wr, f)
  | .passLsh f => some (.pass, .lsh, .none, f)
  | .passLshRd f => some (.pass, .lsh, .rd, f)
  | .passLshWr f => some (.pass, .lsh, .wr, f)
  | .inv f => some (.inv, .none, .none, f)
  | .invRd f => some (.inv, .none, .rd, f)
  | .invWr f => some (.inv, .none, .wr, f)
  | .invRsh f => some (.inv, .rsh, .none, f)
  | .invRshRd f => some (.inv, .rsh, .rd, f)
  | .invRshWr f => some (.inv, .rsh, .wr, f)
  | .invLsh f => some (.inv, .lsh, .none, f)
  | .invLshRd f => some (.inv, .lsh, .rd, f)
  | .invLshWr f => some (.inv, .lsh, .wr, f)

@[simp] theorem datapathParts_datapath (op : AluOp) (sh : ShiftMode) (q : MemReq) (f : Fields) :
    datapathParts (.datapath op sh q f) = some (op, sh, q, f) := by
  cases op <;> cases sh <;> cases q <;> rfl

@[simp] theorem datapathParts_halting (m : ShiftMode) (alu : AluOp) (f : Fields) :
    datapathParts (.halting m alu f) = none := by
  cases m <;> rfl

/-- The parts of a datapath microinstruction are determined by it. -/
theorem datapath_inj {op op' : AluOp} {sh sh' : ShiftMode} {q q' : MemReq} {f f' : Fields}
    (h : Instr.datapath op sh q f = .datapath op' sh' q' f') :
    op = op' ∧ sh = sh' ∧ q = q' ∧ f = f' := by
  simpa using congrArg datapathParts h

theorem halting_ne_datapath {m : ShiftMode} {alu : AluOp} {f f' : Fields} {op : AluOp} {sh : ShiftMode}
    {q : MemReq} : Instr.halting m alu f ≠ .datapath op sh q f' := by
  intro h
  simpa using congrArg datapathParts h

/-- A next state of `exec` comes from a HALT or from the datapath. -/
theorem exec_cases {i : Instr} {s t : State} (h : exec i s = .next t) :
    (∃ m alu f, i = .halting m alu f ∧ t = enterHalted s) ∨
    ∃ op sh q f, i = .datapath op sh q f ∧ t = datapath op sh q f s := by
  rcases instr_cases i with ⟨alu, rd, wr, f, rfl⟩ | ⟨m, alu, f, rfl⟩ | ⟨op, sh, q, f, rfl⟩
  · cases h
  · rw [exec_halting] at h
    cases h
    exact .inl ⟨m, alu, f, rfl, rfl⟩
  · rw [exec_datapath] at h
    cases h
    exact .inr ⟨op, sh, q, f, rfl, rfl⟩

/-- Everything a step that answers a next state can have done (R210). -/
theorem step_cases {s t : State} (h : step s = .next t) :
    s.runState = .running ∧
    ((s.cs[s.mpc.toNat]? = none ∧ t = raiseFault (.internalFault s.mpc) (clearFlags s)) ∨
     (∃ m alu f, s.cs[s.mpc.toNat]? = some (.halting m alu f) ∧ t = enterHalted s.afterFetch) ∨
     ∃ op sh q f, s.cs[s.mpc.toNat]? = some (.datapath op sh q f) ∧
       t = datapath op sh q f s.afterFetch) := by
  unfold step at h
  split at h
  · cases h
  · cases h
  · refine ⟨‹_›, ?_⟩
    cases hc : s.cs[s.mpc.toNat]? with
    | none =>
      have : (clearFlags s).cs[(clearFlags s).mpc.toNat]? = none := hc
      simp only [fetch, this] at h
      cases h
      exact .inl ⟨rfl, rfl⟩
    | some i =>
      have : (clearFlags s).cs[(clearFlags s).mpc.toNat]? = some i := hc
      simp only [fetch, this] at h
      rcases exec_cases h with ⟨m, alu, f, rfl, rfl⟩ | ⟨op, sh, q, f, rfl, rfl⟩
      · exact .inr (.inl ⟨m, alu, f, rfl, rfl⟩)
      · exact .inr (.inr ⟨op, sh, q, f, rfl, rfl⟩)

end Sys2Proof.Machine
end

