-- ==== Sys2Proof/Tests/Slice0.lean ====
section
/-! SUPPORT. Tests of the model against the spec's own examples (spec/95_test_vectors.md and the tables of the rules), a
word for every row of the opcode table, and a witness for the hypotheses of every obligation. -/

namespace Sys2Proof.Tests

open Sys2Proof.Machine

/-! ## Decoding: a word of every row, written out from the table's encoding strings (R111)

The free fields hold AMUX 1, COND 2, MBR 1, MAR 0, ENC 1, C 1, B 6, A 10, ADDR 0x81. -/

def freeFields : Fields := ⟨true, .jz, true, false, true, .ac, .one, .s0, 0x81⟩

theorem test_decode_add_rows :
    decodeWord 0b11000001000100010110101010000001#32 = .ok (.add freeFields) ∧
    decodeWord 0b11000001010100010110101010000001#32 = .ok (.addRd freeFields) ∧
    decodeWord 0b11000001001100010110101010000001#32 = .ok (.addWr freeFields) ∧
    decodeWord 0b11000011000100010110101010000001#32 = .ok (.addRsh freeFields) ∧
    decodeWord 0b11000011010100010110101010000001#32 = .ok (.addRshRd freeFields) ∧
    decodeWord 0b11000011001100010110101010000001#32 = .ok (.addRshWr freeFields) ∧
    decodeWord 0b11000101000100010110101010000001#32 = .ok (.addLsh freeFields) ∧
    decodeWord 0b11000101010100010110101010000001#32 = .ok (.addLshRd freeFields) ∧
    decodeWord 0b11000101001100010110101010000001#32 = .ok (.addLshWr freeFields) := by decide

theorem test_decode_and_rows :
    decodeWord 0b11001001000100010110101010000001#32 = .ok (.and freeFields) ∧
    decodeWord 0b11001001010100010110101010000001#32 = .ok (.andRd freeFields) ∧
    decodeWord 0b11001001001100010110101010000001#32 = .ok (.andWr freeFields) ∧
    decodeWord 0b11001011000100010110101010000001#32 = .ok (.andRsh freeFields) ∧
    decodeWord 0b11001011010100010110101010000001#32 = .ok (.andRshRd freeFields) ∧
    decodeWord 0b11001011001100010110101010000001#32 = .ok (.andRshWr freeFields) ∧
    decodeWord 0b11001101000100010110101010000001#32 = .ok (.andLsh freeFields) ∧
    decodeWord 0b11001101010100010110101010000001#32 = .ok (.andLshRd freeFields) ∧
    decodeWord 0b11001101001100010110101010000001#32 = .ok (.andLshWr freeFields) := by decide

theorem test_decode_pass_rows :
    decodeWord 0b11010001000100010110101010000001#32 = .ok (.pass freeFields) ∧
    decodeWord 0b11010001010100010110101010000001#32 = .ok (.passRd freeFields) ∧
    decodeWord 0b11010001001100010110101010000001#32 = .ok (.passWr freeFields) ∧
    decodeWord 0b11010011000100010110101010000001#32 = .ok (.passRsh freeFields) ∧
    decodeWord 0b11010011010100010110101010000001#32 = .ok (.passRshRd freeFields) ∧
    decodeWord 0b11010011001100010110101010000001#32 = .ok (.passRshWr freeFields) ∧
    decodeWord 0b11010101000100010110101010000001#32 = .ok (.passLsh freeFields) ∧
    decodeWord 0b11010101010100010110101010000001#32 = .ok (.passLshRd freeFields) ∧
    decodeWord 0b11010101001100010110101010000001#32 = .ok (.passLshWr freeFields) := by decide

theorem test_decode_inv_rows :
    decodeWord 0b11011001000100010110101010000001#32 = .ok (.inv freeFields) ∧
    decodeWord 0b11011001010100010110101010000001#32 = .ok (.invRd freeFields) ∧
    decodeWord 0b11011001001100010110101010000001#32 = .ok (.invWr freeFields) ∧
    decodeWord 0b11011011000100010110101010000001#32 = .ok (.invRsh freeFields) ∧
    decodeWord 0b11011011010100010110101010000001#32 = .ok (.invRshRd freeFields) ∧
    decodeWord 0b11011011001100010110101010000001#32 = .ok (.invRshWr freeFields) ∧
    decodeWord 0b11011101000100010110101010000001#32 = .ok (.invLsh freeFields) ∧
    decodeWord 0b11011101010100010110101010000001#32 = .ok (.invLshRd freeFields) ∧
    decodeWord 0b11011101001100010110101010000001#32 = .ok (.invLshWr freeFields) := by decide

theorem test_decode_halt_rows :
    decodeWord 0b11001001011100010110101010000001#32 = .ok (.halt .and freeFields) ∧
    decodeWord 0b11001011011100010110101010000001#32 = .ok (.haltSh1 .and freeFields) ∧
    decodeWord 0b11001101011100010110101010000001#32 = .ok (.haltSh2 .and freeFields) := by decide

/-- An ILLEGAL word: its row, and the decoder's refusal of it (R101, R135). -/
theorem test_illegal_row : classify 0b11001111001100010110101010000001#32 = .illegal .and false true freeFields ∧
    decodeWord 0b11001111001100010110101010000001#32 = .error .range ∧
    encode (.illegal .and false true freeFields) = 0b11001111001100010110101010000001#32 := by decide

/-- spec/95_test_vectors.md 2.1: one field all ones at a time. -/
theorem test_fields_one_at_a_time :
    extract 0x80000000 = { Record.zero with amux := 1 } ∧ extract 0x60000000 = { Record.zero with cond := 3 } ∧
    extract 0x18000000 = { Record.zero with alu := 3 } ∧ extract 0x04000000 = { Record.zero with sh := 2 } ∧
    extract 0x01000000 = { Record.zero with mbr := 1 } ∧ extract 0x00800000 = { Record.zero with mar := 1 } ∧
    extract 0x00400000 = { Record.zero with rd := 1 } ∧ extract 0x00200000 = { Record.zero with wr := 1 } ∧
    extract 0x00100000 = { Record.zero with enc := 1 } ∧ extract 0x000F0000 = { Record.zero with c := 15 } ∧
    extract 0x0000F000 = { Record.zero with b := 15 } ∧ extract 0x00000F00 = { Record.zero with a := 15 } ∧
    extract 0x000000FF = { Record.zero with addr := 255 } := by decide

/-- spec/95_test_vectors.md 2.1: mixed words, both ways. -/
theorem test_mixed_words :
    decodeWord 0xA5A5A5A5 = .ok (.addLshWr ⟨true, .jn, true, true, false, .zero, .s0, .zero, 165⟩) ∧
    encode (.addLshWr ⟨true, .jn, true, true, false, .zero, .s0, .zero, 165⟩) = 0xA5A5A5A5 ∧
    encode (.invRshRd ⟨false, .jz, false, false, true, .s0, .zero, .s0, 90⟩) = 0x5A5A5A5A ∧
    encode (.haltSh2 .inv ⟨true, .jmp, true, true, true, .s5, .s5, .s5, 255⟩) = 0xFDFFFFFF := by decide

/-- spec/95_test_vectors.md 2.2: the refused lines and their reasons. -/
theorem test_refused_lines :
    decode "".toList = .error .length ∧
    decode "0001000000010001000001100000000".toList = .error .length ∧
    decode "00010000000100010000011000000000 ".toList = .error .length ∧
    decode "0001000000010001000001100000000X".toList = .error .nonBinary ∧
    decode "0000011X000000000000000000000000".toList = .error .nonBinary ∧
    decode "00000110000000000000000000000000".toList = .error .range ∧
    decode "11111111111111111111111111111111".toList = .error .range ∧
    decode "0000011".toList = .error .length := by decide

/-- spec/40_decoder.md R133's example, and its inverse. -/
theorem test_line_of_word :
    decodeLine "00010000000100010000011000000000".toList = .ok 0x10110600 ∧
    lineOfWord 0x10110600 = "00010000000100010000011000000000".toList := by decide

/-! ## Well-formedness: each check refuses an ill-formed term -/

theorem test_wf_refuses_illegal : (Instr.illegal .add true true freeFields).wellFormed = false := by decide

theorem test_wf_refuses_range : ({ Record.zero with sh := 3 } : Record).inRange = false := by decide

theorem test_wf_refuses_overfull_store :
    csWellFormed (List.replicate 257 (.halt .add freeFields)) = false := by
  rw [csWellFormed, List.length_replicate]; rfl

theorem test_wf_refuses_illegal_in_store :
    csWellFormed [.halt .add freeFields, .illegal .add true true freeFields] = false := by decide

theorem test_wf_refuses_memory_sizes :
    Config.wf { Config.reference with memSize := 0 } = false ∧
    Config.wf { Config.reference with memSize := 32769 } = false ∧ Config.wf Config.reference = true := by decide

theorem test_wf_refuses_memories :
    Memory.wf [(3, 0#16), (3, 1#16)] = false ∧ Memory.wf [(4, 0#16), (3, 1#16)] = false ∧
    Memory.wf [(3, 0xFFFF#16)] = false ∧ Memory.wf [(3, 0#16), (4, 1#16)] = true := by decide

/-! ## Loads (spec/95_test_vectors.md 2.3) -/

def lineOne : Line := "00010000000100010000011000000000".toList

def lineHalt : Line := "00000000011000000000000000000000".toList

def lineIllegal : Line := "00000110000000000000000000000000".toList

theorem test_load_two_lines : loadControlStore [lineOne, lineHalt] =
    .ok [.pass ⟨false, .never, false, false, true, .ac, .pc, .one, 0⟩,
         .halt .add ⟨false, .never, false, false, false, .pc, .pc, .pc, 0⟩] := by decide

theorem test_load_first_failure :
    loadControlStore [lineOne, lineIllegal, ['0']] = .error (.line 1 .range) ∧
    loadControlStore [] = .ok [] := by decide

theorem test_load_capacity :
    loadControlStore (['X'] :: List.replicate 256 lineHalt) = .error (.capacity 257) := by
  rw [loadControlStore, List.length_cons, List.length_replicate]; rfl

/-- P3's launch memory: the loaded words, and the sentinel beyond them. -/
theorem test_program_load :
    (loadProgram Config.reference ["0001001000110100".toList, "0000000000000101".toList]).toOption.map
      (fun m => (m.read 0, m.read 1, m.read 2)) = some (0x1234#16, 5#16, 0xFFFF#16) := by decide

theorem test_program_refused :
    loadProgram Config.reference ["000100100011010".toList] = .error (.badLine 0) ∧
    loadProgram { Config.reference with memSize := 1 }
      ["0000000000000101".toList, "0000000000000101".toList] = .error (.tooLong 2) := by decide

/-! ## The ALU, the shifter and the buses -/

/-- Rows of R194 and of spec/95_test_vectors.md section 3. -/
theorem test_alu_add :
    alu .add 0x7FFF 0x0001 = ⟨0x8000, false, false⟩ ∧ alu .add 0x8000 0xFFFF = ⟨0x7FFF, false, true⟩ ∧
    alu .add 0x8000 0x8000 = ⟨0x0000, true, true⟩ ∧ alu .add 0xFFFF 0x0001 = ⟨0x0000, true, false⟩ ∧
    alu .add 0xF0F0 0x8F0F = ⟨0x7FFF, false, true⟩ := by decide

theorem test_alu_and :
    alu .and 0x8000 0x7FFF = ⟨0x0000, true, false⟩ ∧ alu .and 0x8001 0x8000 = ⟨0x8000, false, true⟩ ∧
    alu .and 0x1234 0x00FF = ⟨0x0034, false, false⟩ := by decide

theorem test_alu_pass :
    alu .pass 0x8000 0x1111 = ⟨0x8000, false, true⟩ ∧ alu .pass 0x0000 0xFFFF = ⟨0x0000, true, false⟩ := by decide

theorem test_alu_inv :
    alu .inv 0x0000 0x0000 = ⟨0x7FFF, false, false⟩ ∧ alu .inv 0x1234 0xFFFF = ⟨0x6DCB, false, false⟩ ∧
    alu .inv 0xFFFF 0x0000 = ⟨0x0000, true, false⟩ ∧ alu .inv 0x7FFF 0x0000 = ⟨0x0000, true, false⟩ := by decide

/-- Rows of R207. -/
theorem test_shift :
    shift .none 0x8001 = 0x8001 ∧ shift .rsh 0x8001 = 0x4000 ∧ shift .lsh 0x8001 = 0x0002 ∧
    shift .rsh 0xFFFF = 0x7FFF ∧ shift .lsh 0x7FFF = 0xFFFE := by decide

/-- The state of spec/95_test_vectors.md section 5. -/
def busState : State :=
  { State.reset with
    regs := ⟨0x1111, 0x2222, 0x0FFF, 0x3333, 0x4444, 0xA000, 0xA001, 0xA002, 0xA003, 0xA004, 0xA005⟩ }

def readCodes (s : State) (ks : List Nat) : List Word :=
  ks.map fun k => busRead s (BusCode.ofBits (BitVec.ofNat 4 k))

theorem test_bus_read : readCodes busState [0, 1, 2, 3, 4, 5, 6, 7, 8, 9, 10, 11, 12, 13, 14, 15] =
    [0x1111, 0x2222, 0x0FFF, 0x3333, 0x4444, 0x0000, 0x0001, 0xFFFF, 0x00FF, 0x003F,
     0xA000, 0xA001, 0xA002, 0xA003, 0xA004, 0xA005] := by decide

theorem test_bus_write :
    readCodes (busWrite busState (BusCode.ofBits 4) 0xBEEF) [3, 4, 5] = [0x3333, 0xBEEF, 0x0000] ∧
    readCodes (busWrite busState (BusCode.ofBits 15) 0xBEEF) [14, 15, 0] = [0xA004, 0xBEEF, 0x1111] ∧
    busWrite busState (BusCode.ofBits 8) 0xBEEF = busState := by decide

/-! ## Single cycles (spec/95_test_vectors.md section 6) -/

/-- The next state, where there is one. -/
def nextOf (o : Host.Outcome State Fault Refusal) : Option State :=
  match o with
  | .next t => some t
  | .fault _ => none
  | .refused _ => none

/-- A view of a step's next state. -/
def after {α : Type} (s : State) (w : Nat) (view : State → α) : Option α :=
  (nextOf (step (s.withFetchWord 32 w))).map view

def flagsOf (s : State) : Bool × Bool × Bool := (s.z, s.n, s.bt)

theorem test_S1 : after { State.reset with mpc := 3, regs := { busState.regs with pc := 0x0010 } } 0x00106000
    (fun t => (t.regs.pc, t.mpc, flagsOf t)) = some (0x0011, 4, false, false, false) := by decide

theorem test_S2 : after { State.reset with regs := { busState.regs with ac := 0x4001 } } 0x04111100
    (fun t => (t.regs.ac, t.mpc, flagsOf t)) = some (0x0004, 1, false, false, false) := by decide

theorem test_S3 : after { State.reset with mpc := 7 } 0x321A0720
    (fun t => (t.regs.s0, t.mpc, flagsOf t)) = some (0x7FFF, 32, false, true, true) := by decide

theorem test_S4 : after { State.reset with mpc := 2, regs := { busState.regs with ir := 0x1200, tir := 0x5555 } }
    0x48148310 (fun t => (t.regs.tir, t.mpc, flagsOf t)) = some (0x0000, 16, true, false, true) := by decide

theorem test_S5 : after { State.reset with mar := 0x0777, mbr := 0xABCD, mem := [(1, 0x0005)] } 0x91C06000
    (fun t => (t.mar, t.mbr, t.mpc, flagsOf t)) = some (0x0001, 0x0005, 1, false, true, false) := by decide

theorem test_S6 : after { State.reset with mbr := 0x1111 } 0x19150500
    (fun t => (t.mbr, readCodes t [5], t.regs, flagsOf t)) =
      some (0x7FFF, [0x0000], State.reset.regs, false, false, false) := by decide

theorem test_S7a : after State.reset 0x11A02200 (fun t => (t.mar, t.mbr, t.mem, t.runState)) =
    some (0x0FFF, 0x0FFF, [(0x0FFF, 0x0FFF)], .running) := by decide

theorem test_S7b : after { State.reset with regs := { State.reset.regs with sp := 0x1000 } } 0x11A02200
    (fun t => (t.mem, t.mbr, t.runState, t.fault, t.dumps.length)) =
      some ([], 0x1000, .faulted, some (.writeFault 0x1000), 1) := by decide

theorem test_S8 : after { State.reset with mpc := 4, mar := 0xFFFF, mbr := 0x0003 } 0xFDF17655
    (fun t => (t.mpc, t.mbr, flagsOf t, t.runState)) =
      some (5, 0x0003, (false, false, false), .halted) := by decide

theorem test_S9 : (nextOf (step { State.reset with mpc := 2, z := true, cs := List.replicate 2 (.add freeFields) })).map
    (fun t => (t.mpc, flagsOf t, t.runState, t.fault)) =
      some (2, (false, false, false), .faulted, some (.internalFault 2)) := by decide

theorem test_S10 : after { State.reset with mpc := 255 } 0x10110600
    (fun t => (t.regs.ac, t.mpc, t.runState)) = some (0x0001, 256, .running) := by decide

theorem test_S11 : after { State.reset with mar := 0xFFFF, mbr := 0x0009 } 0x40406705
    (fun t => (t.mpc, flagsOf t, t.mbr, t.runState, t.fault)) =
      some (5, (true, false, true), 0x0009, .faulted, some (.memoryFault 0xFFFF)) := by decide

theorem test_S12 : after { State.reset with mbr := 0x00FF } 0x81006000 (fun t => (t.mbr, flagsOf t)) =
    some (0x0100, false, false, false) := by decide

theorem test_S13 : after { State.reset with regs := { State.reset.regs with s1 := 0x0002 }, mem := [(2, 0xBEEF)] }
    0x00DBBB00 (fun t => (t.regs.s1, t.mar, t.mbr)) = some (0x0004, 0x0002, 0xBEEF) := by decide

theorem test_S14 : after { State.reset with regs := { State.reset.regs with ac := 0x7777 } } 0x42115609
    (fun t => (t.regs.ac, t.mpc, flagsOf t)) = some (0x0000, 1, false, false, false) := by decide

theorem test_S15 : after State.reset 0x70000601 (fun t => (t.mpc, flagsOf t)) = some (1, false, false, true) := by decide

theorem test_S16 : after { State.reset with mpc := 5, regs := { State.reset.regs with pc := 0x8000 } } 0x00000000
    (fun t => (t.mpc, flagsOf t, t.regs.pc)) = some (6, (true, true, false), 0x8000) := by decide

/-- An illegal word placed at `mpc` is refused by the step, and nothing runs with nothing loaded (R156). -/
theorem test_illegal_and_empty_store :
    after State.reset 0x06000000 (fun t => t.mpc) = none ∧
    (nextOf (step State.reset)).map (fun t => t.fault) = some (some (.internalFault 0)) := by decide

/-- What the snapshot of a fault holds (R44): the registers and latches of the final state and all of memory. -/
theorem test_snapshot : after { State.reset with cfg := ⟨2, 0x00FF, 0x003F, .onePast⟩, mem := [(1, 0x0005)] } 0x11A07600
    (fun t => t.dumps.map fun d => (d.mar, d.mbr, d.fault, d.words)) =
      some [(0xFFFF, 0x0001, .writeFault 0xFFFF, [0xFFFF, 0x0005])] := by decide

/-! ## The written form (R108, R109; words of spec/95_test_vectors.md) -/

theorem test_assemble :
    (assemble "PASS A=ONE ENC C=AC".toList).map encode = some 0x10110600 ∧
    (assemble "HALT".toList).map encode = some 0x00600000 ∧
    (assemble "ADD A=S0 B=MINUS1 ENC C=S0 JZ=6".toList).map encode = some 0x401A7A06 ∧
    (assemble "PASS RSH A=MINUS1 ENC C=S0 JN=0x20".toList).map encode = some 0x321A0720 ∧
    (assemble "PASS AMUX B=ONE MBR MAR RD".toList).map encode = some 0x91C06000 := by decide

theorem test_assemble_refuses :
    assemble "ADD RSH LSH".toList = none ∧ assemble "ADD RD WR".toList = none ∧
    assemble "ADD A=PC A=PC".toList = none ∧ assemble "HALT ENC".toList = none ∧
    assemble "NOP".toList = none ∧ assemble "ADD A=16".toList = none := by decide

/-! ## Witnesses: for every statement with hypotheses, a concrete case that meets them, one per clause, at the ends of
its range -/

/-- A Running machine with one microinstruction loaded and `mar` 0. -/
def loaded (i : Instr) : State := { State.reset with cs := [i] }

/-- Fields that latch `SP` (0x0FFF, the last cell) into `mar`. -/
def lastCell : Fields := ⟨false, .never, true, true, false, .pc, .sp, .sp, 0⟩

/-- Fields that latch 0xFFFF into `mar`. -/
def outside : Fields := { lastCell with b := .minus1 }

/-- An access in bounds, at the first cell and at the last. -/
def InBoundsAtBothEnds : Prop :=
  (State.reset.accessAddr freeFields).toNat = 0 ∧ (State.reset.accessAddr lastCell).toNat = 4095 ∧
  State.reset.cfg.memSize = 4096

theorem witness_LengthAndCharacterChecks :
    lineHalt.tail.length = 31 ∧ ('0' :: lineHalt).length = 33 ∧
    "0001000000010001000001100000000X".toList.length = 32 ∧
    ∃ c ∈ "0001000000010001000001100000000X".toList, c ≠ '0' ∧ c ≠ '1' :=
  ⟨by decide, by decide, by decide, 'X', by decide, by decide, by decide⟩

theorem witness_LineSpellsItsWord : decodeLine lineOne = .ok 0x10110600 ∧ 0 < 32 ∧ 31 < 32 := by decide

theorem witness_DecodeEncodeRoundTrip :
    (Instr.haltSh2 .inv freeFields).wellFormed = true ∧ decodeWord 0xFDFFFFFF =
      .ok (.haltSh2 .inv ⟨true, .jmp, true, true, true, .s5, .s5, .s5, 255⟩) := by decide

theorem witness_OneRowForEveryWord :
    (⟨"ILLEGAL", 0x06000000, 0x06000000⟩ : Row) ∈ opcodeTable ∧
    (⟨"INV.LSH.WR", 0x1C200000, 0x1E600000⟩ : Row) ∈ opcodeTable := by decide

theorem witness_IllegalWordsNeverRun :
    lineIllegal ∈ [lineOne, lineIllegal] ∧ decode lineIllegal = .error .range ∧ ['0'].length ≠ 32 := by decide

theorem witness_LoadedControlStoreIsImmutable :
    (List.replicate 256 lineHalt).length ≤ 256 ∧
    (∀ line ∈ List.replicate 256 lineHalt, ∃ i, decode line = .ok i) ∧
    ∃ t, step (loaded (.halt .add freeFields)) = .next t :=
  ⟨Nat.le_of_eq List.length_replicate, fun line h => by
    rw [List.eq_of_mem_replicate h]; exact ⟨classify 0x00600000, by decide⟩, _, rfl⟩

theorem witness_FirstFailingLineIsReported :
    [lineOne, lineIllegal].length ≤ 256 ∧ [lineOne, lineIllegal][1]? = some lineIllegal ∧
    decode lineIllegal = .error .range ∧
    ∀ j, j < 1 → ∀ l, [lineOne, lineIllegal][j]? = some l → ∃ i, decode l = .ok i := by
  refine ⟨by decide, rfl, by decide, fun j hj l hl => ?_⟩
  obtain rfl : j = 0 := by omega
  cases hl
  exact ⟨classify 0x10110600, by decide⟩

theorem witness_UnloadedCellsReadAllOnes :
    loadProgram Config.reference ["0000000000000101".toList] = .ok [(0, 5)] ∧
    ["0000000000000101".toList][0]? = some "0000000000000101".toList ∧
    ["0000000000000101".toList].length ≤ 1 := by decide

theorem witness_FreshInstanceStartsAtZero :
    (∃ s, boot Config.reference LaunchValues.zero [lineOne] [] = .ok s) ∧
    [lineOne][0]? = some lineOne ∧ decode lineOne = .ok (classify 0x10110600) :=
  ⟨⟨_, rfl⟩, rfl, by decide⟩

theorem witness_StackPointerStartsAtTopOfMemory :
    Config.wf ⟨1, 0, 0, .lastWord⟩ = true ∧ Config.wf ⟨32768, 0, 0, .lastWord⟩ = true ∧
    Config.wf ⟨1, 0, 0, .onePast⟩ = true ∧ Config.wf ⟨32768, 0, 0, .onePast⟩ = true := by decide

theorem witness_AddCompletes : InBoundsAtBothEnds := ⟨rfl, rfl, rfl⟩

theorem witness_AndCompletes : InBoundsAtBothEnds := ⟨rfl, rfl, rfl⟩

theorem witness_PassCompletes : InBoundsAtBothEnds := ⟨rfl, rfl, rfl⟩

theorem witness_InvCompletes : InBoundsAtBothEnds := ⟨rfl, rfl, rfl⟩

theorem witness_RightShiftFormsComplete : InBoundsAtBothEnds := ⟨rfl, rfl, rfl⟩

theorem witness_LeftShiftFormsComplete : InBoundsAtBothEnds := ⟨rfl, rfl, rfl⟩

theorem witness_HaltCompletes : (loaded (.haltSh2 .inv freeFields)).runState = .running ∧
    (loaded (.haltSh2 .inv freeFields)).cs[(loaded (.haltSh2 .inv freeFields)).mpc.toNat]? =
      some (.halting .lsh .inv freeFields) := ⟨rfl, rfl⟩

theorem witness_FrameOfNonStoringForms :
    (∃ t, exec (.halting .none .add freeFields) State.reset = .next t) ∧
    (∃ t, exec (.datapath .add .rsh .rd freeFields) State.reset = .next t) ∧ MemReq.rd ≠ .wr ∧
    (∃ t, exec (.datapath .inv .lsh .none Record.zero.fields) State.reset = .next t) ∧
    Record.zero.fields.mar = false ∧ Record.zero.fields.mbr = false :=
  ⟨⟨_, rfl⟩, ⟨_, rfl⟩, by decide, ⟨_, rfl⟩, rfl, rfl⟩

theorem witness_FrameOfStoringForms :
    (∃ t, exec (.datapath .add .rsh .wr lastCell) State.reset = .next t) ∧
    (State.reset.accessAddr lastCell).toNat = 4095 ∧
    (∃ t, exec (.datapath .add .rsh .wr outside) State.reset = .next t) ∧
    (∃ t, exec (.datapath .add .rsh .wr Record.zero.fields) State.reset = .next t) ∧
    Record.zero.fields.mar = false ∧ Record.zero.fields.mbr = false :=
  ⟨⟨_, rfl⟩, rfl, ⟨_, rfl⟩, ⟨_, rfl⟩, rfl, rfl⟩

theorem witness_WriteToConstantCodeIsIgnored :
    5 ≤ (5#4).toNat ∧ (5#4).toNat ≤ 9 ∧ 5 ≤ (9#4).toNat ∧ (9#4).toNat ≤ 9 := by decide

theorem witness_ConstantsSurviveEveryRun :
    (∃ t, Host.Core.run Sys2Proof.core 1 (loaded (.halt .add freeFields)) = .next t) ∧
    BusCode.zero ∈ [BusCode.zero, .one, .minus1, .amask, .smask] ∧
    BusCode.smask ∈ [BusCode.zero, .one, .minus1, .amask, .smask] := ⟨⟨_, rfl⟩, by decide, by decide⟩

theorem witness_RegistersChangeOnlyThroughC :
    ∃ t, step (loaded (.pass ⟨false, .never, false, false, true, .s5, .pc, .one, 0⟩)) = .next t ∧
      busRead t .s5 ≠ busRead (loaded (.pass ⟨false, .never, false, false, true, .s5, .pc, .one, 0⟩)) .s5 :=
  ⟨_, rfl, by decide⟩

theorem witness_ZeroFlagOnWrappedResult : ∃ t, exec (.datapath .add .lsh .rd outside) State.reset = .next t :=
  ⟨_, rfl⟩

theorem witness_NegativeFlagIsSignOfRawResult :
    AluOp.inv ≠ .add ∧ ∃ t, exec (.datapath .add .lsh .wr outside) State.reset = .next t :=
  ⟨by decide, _, rfl⟩

theorem witness_InvertForcesBitFifteenClear : (0x7FFF#16).getLsbD 15 = false ∧ (0#16).getLsbD 15 = false := by
  decide

theorem witness_FlagsIgnoreTheShifter :
    ∃ t t', exec (.datapath .pass .rsh .none lastCell) State.reset = .next t ∧
      exec (.datapath .pass .lsh .none lastCell) State.reset = .next t' := ⟨_, _, rfl, rfl⟩

theorem witness_StepRunsTheDecodedInstruction :
    loadControlStore [lineOne] = .ok [classify 0x10110600] ∧
    (loaded (classify 0x10110600)).runState = .running ∧
    [lineOne][(loaded (classify 0x10110600)).mpc.toNat]? = some lineOne ∧
    decode lineOne = .ok (classify 0x10110600) := by decide

theorem witness_BranchOnFlagsOfSameCycle :
    (∃ t, step (loaded (.add { freeFields with cond := .never })) = .next t) ∧
    (∃ t, step (loaded (.add { freeFields with cond := .jn })) = .next t) ∧
    (∃ t, step (loaded (.add { freeFields with cond := .jz })) = .next t) ∧
    (∃ t, step (loaded (.add { freeFields with cond := .jmp })) = .next t) :=
  ⟨⟨_, rfl⟩, ⟨_, rfl⟩, ⟨_, rfl⟩, _, rfl⟩

theorem witness_FlagsCarryNothingOver : State.reset.runState = .running := rfl

theorem witness_DontCareFieldsChangeNothing :
    freeFields.amux = true ∧ Record.zero.fields.enc = false ∧ Record.zero.fields.cond = .never ∧
    Record.zero.fields.mar = false ∧ (AluOp.pass = .pass ∨ AluOp.pass = .inv) ∧
    (AluOp.inv = .pass ∨ AluOp.inv = .inv) := by decide

theorem witness_AllZeroWordOnlyMovesOn :
    decodeWord 0#32 = .ok (classify 0#32) ∧ (loaded (classify 0#32)).runState = .running ∧
    (loaded (classify 0#32)).cs[(loaded (classify 0#32)).mpc.toNat]? = some (classify 0#32) := by decide

theorem witness_RunningMachineAlwaysSteps :
    csWellFormed (loaded (.add freeFields)).cs = true ∧ (loaded (.add freeFields)).runState = .running := by decide

/-- Both clauses of a request: the last cell, and the first address past it. -/
def LastAndFirstPast : Prop :=
  (State.reset.accessAddr lastCell).toNat = 4095 ∧
  ({ State.reset with regs := { State.reset.regs with sp := 0x1000 } }.accessAddr lastCell).toNat = 4096 ∧
  State.reset.cfg.memSize = 4096 ∧ State.reset.mem.wf = true

theorem witness_ReadRequestLoadsOrFaults : LastAndFirstPast := ⟨rfl, rfl, rfl, rfl⟩

theorem witness_WriteRequestStoresOrFaults : LastAndFirstPast := ⟨rfl, rfl, rfl, rfl⟩

theorem witness_WriteSetsOneCell :
    State.reset.mem.wf = true ∧ (State.reset.accessAddr lastCell).toNat < State.reset.cfg.memSize ∧
    ∃ t, exec (.datapath .pass .none .wr lastCell) State.reset = .next t := ⟨rfl, by decide, _, rfl⟩

theorem witness_OneCellAtMostPerCycle :
    ∃ t, step (loaded (.passWr lastCell)) = .next t ∧
      t.mem.read 4095 ≠ (loaded (.passWr lastCell)).mem.read 4095 := ⟨_, rfl, by decide⟩

theorem witness_MemoryFaultIsTerminal :
    State.reset.cfg.memSize =
      ({ State.reset with regs := { State.reset.regs with sp := 0x1000 } }.accessAddr lastCell).toNat ∧
    State.reset.cfg.memSize ≤ (State.reset.accessAddr outside).toNat := by decide

theorem witness_FaultedTransition :
    (∃ t, step (loaded (.addRd outside)) = .next t ∧ t.runState = .faulted) ∧
    (∃ t, step (loaded (.addRd lastCell)) = .next t ∧ t.runState ≠ .faulted) :=
  ⟨⟨_, rfl, by decide⟩, _, rfl, by decide⟩

theorem witness_FetchOutsideStoreFaults :
    State.reset.runState = .running ∧ State.reset.cs.length = State.reset.mpc.toNat := by decide

theorem witness_FaultsExactlyWhenListed :
    (∃ t, step State.reset = .next t ∧ State.reset.cs.length ≤ State.reset.mpc.toNat) ∧
    (∃ t, step (loaded (.datapath .add .none .rd outside)) = .next t ∧ t.runState = .faulted) ∧
    (∃ t, step (loaded (.datapath .add .none .wr outside)) = .next t ∧ t.runState = .faulted) ∧
    (loaded (.datapath .add .none .wr lastCell)).CannotFault :=
  ⟨⟨_, rfl, by decide⟩, ⟨_, rfl, by decide⟩, ⟨_, rfl, by decide⟩, _, rfl, fun op sh q f h _ => by
    cases op <;> cases sh <;> cases q <;> cases h; decide⟩

theorem witness_SequencerTransitions :
    (∃ s, boot Config.reference LaunchValues.zero [] [] = .ok s) ∧
    (∃ t, step (loaded (.halt .add freeFields)) = .next t ∧ t.runState = .halted) ∧
    (∃ t, step State.reset = .next t ∧ t.runState = .faulted) ∧
    (enterHalted State.reset).runState = .halted ∧
    (raiseFault (.internalFault 0) State.reset).runState = .faulted :=
  ⟨⟨_, rfl⟩, ⟨_, rfl, rfl⟩, ⟨_, rfl, rfl⟩, rfl, rfl⟩

theorem inv_loaded (i : Instr) (h : i.wellFormed = true) : (loaded i).Inv where
  cfgWf := rfl
  memWf := rfl
  memWithin := rfl
  csWf := by simp [loaded, csWellFormed, csCap, h]
  mpcRange := Nat.zero_le _
  recordOk := ⟨rfl, rfl⟩

theorem witness_StepKeepsInvariant :
    (loaded (.addWr lastCell)).Inv ∧ ∃ t, step (loaded (.addWr lastCell)) = .next t := ⟨inv_loaded _ rfl, _, rfl⟩

theorem witness_BootMeetsInvariant :
    Config.reference.wf = true ∧ ∃ s, boot Config.reference LaunchValues.zero [lineOne] [] = .ok s := ⟨rfl, _, rfl⟩

/-- The one-line control store HALT: its only Running state is the first, and that cannot fault. -/
theorem witness_RunWithoutCauseNeverFaults :
    (loaded (.halt .add freeFields)).runState = .running ∧
    ∀ k t, Host.Core.run Sys2Proof.core k (loaded (.halt .add freeFields)) = .next t →
      State.runState t = .running → State.CannotFault t := by
  refine ⟨rfl, fun k t h hr => ?_⟩
  match k with
  | 0 =>
    cases h
    refine ⟨_, rfl, fun op sh q f h _ => ?_⟩
    cases op <;> cases sh <;> cases q <;> cases h
  | 1 => cases h; cases hr
  | k + 2 => cases h

theorem witness_NotationGivesItsOperation :
    assembleDatapath .pass [.amux, .b .one, .mbr, .mar, .rd] = some (classify 0x91C06000) := by decide

theorem witness_ProgramLineSpellsItsWord :
    programWord "1000000000000001".toList = some 0x8001 ∧ 0 < 16 ∧ 15 < 16 := by decide

theorem witness_BadProgramIsRefused :
    ¬ ∃ m, loadProgram { Config.reference with memSize := 1 } [lineOne.take 16, lineOne.take 16] = .ok m :=
  fun ⟨_, h⟩ => by cases h

theorem witness_SnapshotHoldsTheWholeState :
    (∃ t, step (loaded (.addWr outside)) = .next t ∧ t.runState = .faulted) ∧
    (∃ t, step (loaded (.halt .add outside)) = .next t ∧ t.runState = .halted) ∧
    0 < (loaded (.addWr outside)).cfg.memSize ∧ 4095 < (loaded (.addWr outside)).cfg.memSize :=
  ⟨⟨_, rfl, rfl⟩, ⟨_, rfl, rfl⟩, by decide, by decide⟩

/-- Of two defects of a program the number of lines is reported (log 34). -/
theorem test_program_two_defects :
    loadProgram { Config.reference with memSize := 1 } [['X'], ['X']] = .error (.tooLong 2) ∧
    loadProgram Config.reference ["0000000000000101".toList, ['X'], ['Y']] = .error (.badLine 1) := by decide

end Sys2Proof.Tests
end

/-! ## The sequencer's states (R32)

How each operation that can end a cycle leaves `runState`, what a boot gives, and the transitions that follow. -/

namespace Sys2Proof.Machine

@[simp] theorem State.launch_runState (cfg : Config) (v : LaunchValues) (cs : List Instr) (mem : Memory) :
    (State.launch cfg v cs mem).runState = .running := rfl

@[simp] theorem clearFlags_runState (s : State) : (clearFlags s).runState = s.runState := rfl

@[simp] theorem State.afterFetch_runState (s : State) : s.afterFetch.runState = s.runState := rfl

@[simp] theorem raiseFault_runState (r : FaultRecord) (s : State) : (raiseFault r s).runState = .faulted := rfl

@[simp] theorem raiseFault_fault (r : FaultRecord) (s : State) : (raiseFault r s).fault = some r := rfl

@[simp] theorem enterHalted_runState (s : State) : (enterHalted s).runState = .halted := rfl

/-- A machine that boots is the launch state of what the two loads gave (R290, R291). -/
theorem boot_ok {cfg : Config} {v : LaunchValues} {csLines programLines : List Line} {s : State}
    (h : boot cfg v csLines programLines = .ok s) :
    ∃ cs mem, loadControlStore csLines = .ok cs ∧ loadProgram cfg programLines = .ok mem ∧
      s = State.launch cfg v cs mem := by
  unfold boot at h
  split at h
  · cases h
  next cs hcs =>
    split at h
    · cases h
    next mem hmem =>
      cases h
      exact ⟨cs, mem, hcs, hmem, rfl⟩

/-- No cycle runs in Halted (R32, log 26). -/
theorem step_of_halted {s : State} (h : s.runState = .halted) : step s = .fault .machineHalted := by
  simp only [step, h]

/-- No cycle runs in Faulted (R32, R273, log 26). -/
theorem step_of_faulted {s : State} (h : s.runState = .faulted) : step s = .fault .machineFaulted := by
  simp only [step, h]

/-- Step 12 leaves the sequencer's state and the fault record alone, or is the Faulted transition (R268). -/
theorem memAccess_keeps_or_faults (q : MemReq) (s : State) :
    ((memAccess q s).runState = s.runState ∧ (memAccess q s).fault = s.fault) ∨
    ∃ r, memAccess q s = raiseFault r s := by
  rcases memAccess_cases q s with ⟨-, h⟩ | ⟨-, -, h⟩ | ⟨-, -, h⟩ | ⟨-, -, h⟩ | ⟨-, -, h⟩
  · exact .inl (by simp [h])
  · exact .inl (by simp [h])
  · exact .inr ⟨_, h⟩
  · exact .inl (by simp [h])
  · exact .inr ⟨_, h⟩

/-- A datapath microinstruction leaves the sequencer's state and the fault record alone, or ends in the Faulted
transition, taken on the state of step 11 (R210, R268). -/
theorem datapath_keeps_or_faults (op : AluOp) (sh : ShiftMode) (q : MemReq) (f : Fields) (s : State) :
    ((datapath op sh q f s).runState = s.runState ∧ (datapath op sh q f s).fault = s.fault) ∨
    ∃ r, datapath op sh q f s = raiseFault r (datapathSteps op sh f s) := by
  obtain ⟨-, hrun, hfault, -, -, -⟩ := datapathSteps_rest op sh f s
  simpa only [datapath, hrun, hfault] using memAccess_keeps_or_faults q (datapathSteps op sh f s)

/-- A cycle without a HALT at `mpc` stays in Running or ends in the Faulted transition. -/
theorem step_running_or_faults {s t : State} (h : step s = .next t)
    (hn : ¬ ∃ m alu f, s.cs[s.mpc.toNat]? = some (.halting m alu f)) :
    t.runState = .running ∨ ∃ r u, t = raiseFault r u := by
  obtain ⟨hrun, ⟨-, rfl⟩ | ⟨m, alu, f, hc, -⟩ | ⟨op, sh, q, f, -, rfl⟩⟩ := step_cases h
  · exact .inr ⟨_, _, rfl⟩
  · exact absurd ⟨m, alu, f, hc⟩ hn
  · rcases datapath_keeps_or_faults op sh q f s.afterFetch with ⟨hk, -⟩ | ⟨r, hr⟩
    · exact .inl (hk.trans hrun)
    · exact .inr ⟨r, _, hr⟩

/-- A cycle with a HALT at `mpc` ends in Halted (R214). -/
theorem step_halts {s t : State} (h : step s = .next t) {m : ShiftMode} {alu : AluOp} {f : Fields}
    (hc : s.cs[s.mpc.toNat]? = some (.halting m alu f)) : t = enterHalted s.afterFetch := by
  obtain ⟨-, ⟨hc', -⟩ | ⟨_, _, _, -, ht⟩ | ⟨op, sh, q, f', hc', -⟩⟩ := step_cases h
  · cases hc.symm.trans hc'
  · exact ht
  · exact absurd (Option.some.inj (hc.symm.trans hc')) halting_ne_datapath

/-- A cycle ends in Halted exactly when the microinstruction at `mpc` is a HALT (R32, R214). -/
theorem step_halted_iff {s t : State} (h : step s = .next t) :
    t.runState = .halted ↔ ∃ m alu f, s.cs[s.mpc.toNat]? = some (.halting m alu f) := by
  constructor
  · intro ht
    by_contra hn
    rcases step_running_or_faults h hn with hr | ⟨r, u, rfl⟩
    · cases hr.symm.trans ht
    · cases ht
  · rintro ⟨m, alu, f, hc⟩
    rw [step_halts h hc, enterHalted_runState]

/-- A cycle that ends in Faulted is a Faulted transition, with its record (R32, R33, R268). -/
theorem step_faulted_record {s t : State} (h : step s = .next t) (ht : t.runState = .faulted) :
    ∃ r, t.fault = some r := by
  have hn : ¬ ∃ m alu f, s.cs[s.mpc.toNat]? = some (.halting m alu f) := by
    rw [← step_halted_iff h, ht]
    exact RunState.noConfusion
  rcases step_running_or_faults h hn with hr | ⟨r, u, rfl⟩
  · cases hr.symm.trans ht
  · exact ⟨r, raiseFault_fault r u⟩

/-- Settles O48: a boot gives a launch state, and each clause on a step is the lemma about that transition. -/
theorem sequencerTransitions : Obligations.SequencerTransitions := by
  refine ⟨fun cfg v csLines programLines s h => ?_, fun s t h => ?_, fun s => ⟨step_of_halted, step_of_faulted⟩⟩
  · obtain ⟨cs, mem, -, -, rfl⟩ := boot_ok h
    exact State.launch_runState cfg v cs mem
  · obtain ⟨hrun, -⟩ := step_cases h
    exact ⟨hrun, step_halted_iff h, step_faulted_record h⟩

end Sys2Proof.Machine

/-! ## Program memory (R65, R68)

What the program load leaves in each cell, and what a write leaves in each cell. -/

namespace Sys2Proof.Machine

/-- The words of a program are its lines' words, one for one and in order (R78). -/
theorem programWords_ok {i : Nat} {lines : List Line} {ws : List Word} (h : programWords i lines = .ok ws) :
    lines.map programWord = ws.map some := by
  induction lines generalizing i ws with
  | nil => cases h; rfl
  | cons l ls ih =>
    unfold programWords at h
    split at h
    · cases h
    next w hw =>
      split at h
      · cases h
      next rest hrest =>
        cases h
        simp only [List.map_cons, hw, ih hrest]

/-- A program load that succeeds lays out the words of lines that fit the memory (R79). -/
theorem loadProgram_ok {cfg : Config} {lines : List Line} {m : Memory} (h : loadProgram cfg lines = .ok m) :
    lines.length ≤ cfg.memSize ∧ ∃ ws, lines.map programWord = ws.map some ∧ m = memoryFrom 0 ws := by
  unfold loadProgram at h
  split at h
  · cases h
  next hlen =>
    split at h
    · cases h
    next ws hws =>
      cases h
      exact ⟨Nat.le_of_not_lt hlen, ws, programWords_ok hws, rfl⟩

/-- The cell `k` above the base holds word `k`, and the sentinel past the last word (R68). A word equal to the
sentinel is not listed, and its cell reads as the sentinel all the same. -/
theorem memoryFrom_read (a : Nat) (ws : List Word) (k : Nat) :
    (memoryFrom a ws).read (a + k) = ws[k]?.getD unlisted := by
  induction ws generalizing a k with
  | nil => rfl
  | cons w ws ih =>
    cases k with
    | zero =>
      by_cases hw : w = unlisted
      · simpa [memoryFrom, hw] using Memory.read_below (memoryFrom_wfFrom (a + 1) ws) (Nat.lt_succ_self a)
      · simp [memoryFrom, hw, Memory.read]
    | succ k =>
      have htail : (memoryFrom (a + 1) ws).read (a + (k + 1)) = ws[k]?.getD unlisted := by
        rw [← ih (a + 1) k, Nat.add_right_comm, Nat.add_assoc]
      by_cases hw : w = unlisted <;> simp [memoryFrom, hw, Memory.read, htail]

/-- Every cell after a program load, by the words of the lines (R68). -/
theorem memoryFrom_zero_read (ws : List Word) (k : Nat) : (memoryFrom 0 ws).read k = ws[k]?.getD unlisted := by
  simpa using memoryFrom_read 0 ws k

/-- Settles O12: the load lays out the lines' words from cell 0, and past the last of them every cell reads as the
sentinel. -/
theorem unloadedCellsReadAllOnes : Obligations.UnloadedCellsReadAllOnes := by
  intro cfg lines m h
  obtain ⟨-, ws, hmap, rfl⟩ := loadProgram_ok h
  refine ⟨fun k line hline => ?_, fun k hk => ?_⟩
  · have hword : some (programWord line) = ws[k]?.map some := by
      simpa [hline] using congrArg (·[k]?) hmap
    obtain ⟨w, hw, hline'⟩ := Option.map_eq_some_iff.1 hword.symm
    rw [← hline', memoryFrom_zero_read, hw, Option.getD_some]
  · have hlen : lines.length = ws.length := by simpa using congrArg List.length hmap
    rw [memoryFrom_zero_read, List.getElem?_eq_none (hlen ▸ hk), Option.getD_none]
    rfl

/-- Every cell after a write to a canonical memory (R65). -/
theorem Memory.read_write {m : Memory} (w : m.wf = true) (a b : Nat) (v : Word) :
    (m.write a v).read b = if b = a then v else m.read b := by
  by_cases h : b = a
  · rw [if_pos h, h, Memory.read_write_self w]
  · rw [if_neg h, Memory.read_write_of_ne m v h]

/-- Step 12 of a write in bounds (R246). -/
theorem memAccess_wr_inBounds {s : State} (h : s.mar.toNat < s.cfg.memSize) :
    memAccess .wr s = s.setMem (s.mem.write s.mar.toNat s.mbr) := by
  simp [memAccess, memPort, inBounds, memWrite, h]

/-- The address step 12 accesses is `mar` as steps 4 to 11 leave it (R241). -/
theorem datapathSteps_mar_eq_accessAddr (op : AluOp) (sh : ShiftMode) (f : Fields) (s : State) :
    (datapathSteps op sh f s).mar = s.accessAddr f :=
  datapathSteps_mar op sh f s

/-- A write form in bounds ends with step 11's state and its `mbr` stored at the address accessed (R246, R247). -/
theorem datapath_wr_inBounds (op : AluOp) (sh : ShiftMode) {f : Fields} {s : State}
    (h : (s.accessAddr f).toNat < s.cfg.memSize) :
    datapath op sh .wr f s = (datapathSteps op sh f s).setMem
      (s.mem.write (s.accessAddr f).toNat (datapathSteps op sh f s).mbr) := by
  obtain ⟨hcfg, -, -, hmem, -, -⟩ := datapathSteps_rest op sh f s
  have hmar := datapathSteps_mar_eq_accessAddr op sh f s
  rw [datapath, memAccess_wr_inBounds (by rw [hmar, hcfg]; exact h), hmar, hmem]

/-- Settles O42: a write form in bounds stores its `mbr` by one write to the memory it found, which is canonical. -/
theorem writeSetsOneCell : Obligations.WriteSetsOneCell := by
  intro op sh f s t hwf hin h a
  rw [exec_datapath, datapath_wr_inBounds op sh hin] at h
  cases h
  rw [State.setMem_mem, State.setMem_mbr, Memory.read_write hwf]

end Sys2Proof.Machine

/-! ## Illegal words (R101)

The decoder refuses the words whose `SH` field is 3, and the load refuses what the decoder refuses. -/

namespace Sys2Proof

/-- The range check turns on `SH` alone: two bits hold no other value out of range (R99, R100, R135). -/
theorem Record.inRange_iff (r : Record) : r.inRange = true ↔ r.sh ≠ 3#2 := by
  have hcond : r.cond.toNat < 4 := r.cond.isLt
  have halu : r.alu.toNat < 4 := r.alu.isLt
  simp only [inRange, Bool.and_eq_true, decide_eq_true_eq]
  bv_omega

/-- The mask of the ILLEGAL row keeps the `SH` field of a word, in its place (R91, R111). -/
theorem and_shMask (w : MicroWord) : w &&& 0x06000000#32 = (extract w).sh.setWidth 32 <<< 25 := by
  apply BitVec.eq_of_getLsbD_eq
  intro i hi
  interval_cases i <;> simp [extract]

theorem setWidth_shiftLeft_eq_shMask_iff :
    ∀ v : BitVec 2, v.setWidth 32 <<< 25 = 0x06000000#32 ↔ v = 3#2 := by decide

/-- A word falls in the ILLEGAL row exactly when its `SH` field is 3 (R101, R111). -/
theorem and_shMask_eq_iff (w : MicroWord) :
    w &&& 0x06000000#32 = 0x06000000#32 ↔ (extract w).sh = 3#2 := by
  rw [and_shMask, setWidth_shiftLeft_eq_shMask_iff]

theorem extract_inRange_iff (w : MicroWord) :
    (extract w).inRange = true ↔ w &&& 0x06000000#32 ≠ 0x06000000#32 := by
  rw [Record.inRange_iff, Ne, Ne, and_shMask_eq_iff]

theorem decodeWord_of_legal {w : MicroWord} (h : w &&& 0x06000000#32 ≠ 0x06000000#32) :
    decodeWord w = .ok (classify w) :=
  if_pos ((extract_inRange_iff w).2 h)

theorem decodeWord_of_illegal {w : MicroWord} (h : w &&& 0x06000000#32 = 0x06000000#32) :
    decodeWord w = .error .range :=
  if_neg fun hr => (extract_inRange_iff w).1 hr h

theorem decodeWord_eq_range_iff (w : MicroWord) :
    decodeWord w = .error .range ↔ w &&& 0x06000000#32 = 0x06000000#32 := by
  refine ⟨fun h => ?_, decodeWord_of_illegal⟩
  by_contra hlegal
  cases h.symm.trans (decodeWord_of_legal hlegal)

theorem exists_decodeWord_ok_iff (w : MicroWord) :
    (∃ i, decodeWord w = .ok i) ↔ w &&& 0x06000000#32 ≠ 0x06000000#32 := by
  refine ⟨?_, fun h => ⟨_, decodeWord_of_legal h⟩⟩
  rintro ⟨i, h⟩ hillegal
  cases h.symm.trans (decodeWord_of_illegal hillegal)

/-- The word of an ILLEGAL microinstruction falls in its row, whatever its other fields (R111). -/
theorem encode_illegal_and_shMask (alu : AluOp) (rd wr : Bool) (f : Fields) :
    encode (.illegal alu rd wr f) &&& 0x06000000#32 = 0x06000000#32 := by
  have hfixed : Laws.fixedBits alu.toBits 3#2 (bitOf rd) (bitOf wr) &&& 0x06000000#32 = 0x06000000#32 := by
    cases alu <;> cases rd <;> cases wr <;> decide
  exact (Laws.encodeWord_and_of_le _ (by decide)).trans hfixed

theorem isBinary_iff (c : Char) : isBinary c = true ↔ c = '0' ∨ c = '1' := by
  simp [isBinary]

/-- `DecodeLine` accepts only lines of 32 characters, each '0' or '1' (R131, R132). -/
theorem decodeLine_ok {line : Line} {w : MicroWord} (h : decodeLine line = .ok w) :
    line.length = 32 ∧ ∀ c ∈ line, c = '0' ∨ c = '1' := by
  unfold decodeLine at h
  split_ifs at h with hlen hbin
  exact ⟨not_not.1 hlen, fun c hc => (isBinary_iff c).1 (List.all_eq_true.1 hbin c hc)⟩

/-- What `Decode` accepts, `DecodeLine` and then `DecodeWord` accept (R130). -/
theorem decode_ok {line : Line} {i : Instr} (h : decode line = .ok i) :
    ∃ w, decodeLine line = .ok w ∧ decodeWord w = .ok i := by
  unfold decode at h
  split at h
  next w hw => exact ⟨w, hw, h⟩
  next => cases h

theorem exists_decode_error_of_malformed {line : Line}
    (h : line.length ≠ 32 ∨ ∃ c ∈ line, c ≠ '0' ∧ c ≠ '1') : ∃ e, decode line = .error e := by
  cases hd : decode line with
  | error e => exact ⟨e, rfl⟩
  | ok i =>
    obtain ⟨w, hw, -⟩ := decode_ok hd
    obtain ⟨hlen, hbin⟩ := decodeLine_ok hw
    rcases h with hlen' | ⟨c, hc, h0, h1⟩
    · exact absurd hlen hlen'
    · exact absurd (hbin c hc) (not_or.2 ⟨h0, h1⟩)

/-- A load that succeeds has decoded every item of the list (R153). -/
theorem decodeEach_ok_of_mem {α : Type} {dec : α → Except DecodeError Instr} {k : Nat} {xs : List α}
    {cs : List Instr} (h : decodeEach dec k xs = .ok cs) : ∀ x ∈ xs, ∃ i, dec x = .ok i := by
  induction xs generalizing k cs with
  | nil => simp
  | cons y ys ih =>
    unfold decodeEach at h
    split at h
    · cases h
    next i hi =>
      split at h
      · cases h
      next rest hrest => exact List.forall_mem_cons.2 ⟨⟨i, hi⟩, ih hrest⟩

/-- A control store that loads fits the capacity and is its lines decoded in order (R151 to R153). -/
theorem loadControlStore_ok {lines : List Line} {cs : List Instr} (h : loadControlStore lines = .ok cs) :
    lines.length ≤ csCap ∧ decodeEach decode 0 lines = .ok cs := by
  unfold loadControlStore at h
  split at h
  · cases h
  next hlen => exact ⟨Nat.le_of_not_lt hlen, h⟩

/-- A control store with a refused line is never built (R153). -/
theorem not_loadControlStore_ok_of_refused {lines : List Line} {line : Line} {e : DecodeError}
    (hmem : line ∈ lines) (he : decode line = .error e) : ¬ ∃ cs, loadControlStore lines = .ok cs := by
  rintro ⟨cs, h⟩
  obtain ⟨-, heach⟩ := loadControlStore_ok h
  obtain ⟨i, hi⟩ := decodeEach_ok_of_mem heach line hmem
  cases he.symm.trans hi

/-- The meaning of ILLEGAL is the model's refusal (R101, log 28). -/
theorem Machine.exec_illegal (alu : AluOp) (rd wr : Bool) (f : Fields) (s : Machine.State) :
    Machine.exec (.illegal alu rd wr f) s = .refused .illegalEncoding := rfl

/-- Settles O7: the range check sees `SH` = 3 and nothing else, a load decodes every line, and the word of an
ILLEGAL microinstruction has `SH` = 3. -/
theorem illegalWordsNeverRun : Obligations.IllegalWordsNeverRun :=
  ⟨decodeWord_eq_range_iff, exists_decodeWord_ok_iff,
    fun _ _ _ hmem he => not_loadControlStore_ok_of_refused hmem he,
    fun _ h => exists_decode_error_of_malformed h,
    fun alu rd wr f s =>
      ⟨decodeWord_of_illegal (encode_illegal_and_shMask alu rd wr f), Machine.exec_illegal alu rd wr f s⟩⟩

end Sys2Proof

/-! ## Write-back to a constant code (R104) -/

namespace Sys2Proof.Machine

/-- The codes 5 to 9 are the constants, and every other code names a register (R20, R23, R166). -/
theorem writable_ofBits : ∀ c : BitVec 4,
    BusCode.writable (BusCode.ofBits c) = !decide (5 ≤ c.toNat ∧ c.toNat ≤ 9) := by decide

/-- Step 9 does nothing when `C` names a constant, whether enabled or not (R184). -/
theorem writeBack_of_constant {f : Fields} (h : BusCode.writable f.c = false) (v : Word) (s : State) :
    writeBack f v s = s := by
  unfold writeBack
  split_ifs
  · rw [busWrite, regs_write_constant s.regs h]
    rfl
  · rfl

/-- Only step 9 reads `ENC`, so with a constant code in `C` its value is of no effect (R104). -/
theorem datapathSteps_enc_of_constant (op : AluOp) (sh : ShiftMode) {f : Fields}
    (h : BusCode.writable f.c = false) (e : Bool) (s : State) :
    datapathSteps op sh { f with enc := e } s = datapathSteps op sh f s := by
  simp only [datapathSteps, writeBack_of_constant h, writeBack_of_constant (f := { f with enc := e }) h]
  rfl

theorem datapath_enc_of_constant (op : AluOp) (sh : ShiftMode) (q : MemReq) {f : Fields}
    (h : BusCode.writable f.c = false) (e : Bool) (s : State) :
    datapath op sh q { f with enc := e } s = datapath op sh q f s :=
  congrArg (memAccess q) (datapathSteps_enc_of_constant op sh h e s)

/-- Settles O26: codes 5 to 9 are the constants, and with one of them in `C` a datapath microinstruction does not
depend on `ENC`. -/
theorem writeToConstantCodeIsIgnored : Obligations.WriteToConstantCodeIsIgnored := by
  intro op sh q f s c h5 h9
  have hc : BusCode.writable (BusCode.ofBits c) = false := by simp [writable_ofBits, h5, h9]
  rw [exec_datapath, exec_datapath]
  exact congrArg Host.Outcome.next
    (datapath_enc_of_constant op sh q (f := { f with enc := false, c := BusCode.ofBits c }) hc true s)

end Sys2Proof.Machine

/-! ## The decoder's line checks and fields (R131, R132, R134) -/

namespace Sys2Proof

theorem decodeLine_of_length_ne {line : Line} (h : line.length ≠ 32) : decodeLine line = .error .length :=
  if_pos h

theorem decodeLine_of_nonBinary {line : Line} (hlen : line.length = 32) (h : ∃ c ∈ line, c ≠ '0' ∧ c ≠ '1') :
    decodeLine line = .error .nonBinary := by
  have hbin : ¬ line.all isBinary = true := by
    obtain ⟨c, hc, h0, h1⟩ := h
    exact fun hall => not_or.2 ⟨h0, h1⟩ ((isBinary_iff c).1 (List.all_eq_true.1 hall c hc))
  rw [decodeLine, if_neg (not_not.2 hlen), if_neg hbin]

/-- What `DecodeLine` refuses, `Decode` refuses for the same reason (R130). -/
theorem decode_of_decodeLine_error {line : Line} {e : DecodeError} (h : decodeLine line = .error e) :
    decode line = .error e := by
  rw [decode, h]

/-- Settles O1: `DecodeLine` tests the length first and then the characters, and `Decode` hands its refusal on. -/
theorem lengthAndCharacterChecks : Obligations.LengthAndCharacterChecks := fun _ =>
  ⟨fun hlen => decode_of_decodeLine_error (decodeLine_of_length_ne hlen),
    fun hlen hbad => decode_of_decodeLine_error (decodeLine_of_nonBinary hlen hbad)⟩

/-- A bit slice of a word, as a number: the word's value shifted down and cut to the slice's width (R134). -/
theorem toNat_extractLsb'_eq_div_mod {n : Nat} (w : BitVec n) (start len : Nat) :
    (w.extractLsb' start len).toNat = w.toNat / 2 ^ start % 2 ^ len := by
  rw [BitVec.extractLsb'_toNat, Nat.shiftRight_eq_div_pow]

/-- The top bit needs no cut: nothing of the word lies above it (R91). -/
theorem toNat_extract_amux (w : MicroWord) : (extract w).amux.toNat = w.toNat / 2 ^ 31 := by
  have hlt : w.toNat / 2 ^ 31 < 2 := Nat.div_lt_of_lt_mul w.isLt
  exact (toNat_extractLsb'_eq_div_mod w 31 1).trans (Nat.mod_eq_of_lt hlt)

/-- The bottom eight bits need no shift (R91). -/
theorem toNat_extract_addr (w : MicroWord) : (extract w).addr.toNat = w.toNat % 256 := by
  have hslice : (extract w).addr.toNat = w.toNat / 2 ^ 0 % 2 ^ 8 := toNat_extractLsb'_eq_div_mod w 0 8
  rwa [pow_zero, Nat.div_one] at hslice

/-- Settles O4: each field is a slice of the word at its place in R91, the first at the top and the last at the
bottom. -/
theorem fieldsAreUnsignedSlices : Obligations.FieldsAreUnsignedSlices := fun w =>
  have slice (start len : Nat) := toNat_extractLsb'_eq_div_mod w start len
  ⟨toNat_extract_amux w, slice 29 2, slice 27 2, slice 25 2, slice 24 1, slice 23 1, slice 22 1, slice 21 1,
    slice 20 1, slice 16 4, slice 12 4, slice 8 4, toNat_extract_addr w⟩

end Sys2Proof

/-! ## The control-store load (R151 to R155) and the store's immutability (R154) -/

namespace Sys2Proof

theorem loadControlStore_of_overfull {lines : List Line} (h : lines.length > 256) :
    loadControlStore lines = .error (.capacity lines.length) :=
  if_pos h

theorem loadControlStore_of_fits {lines : List Line} (h : lines.length ≤ 256) :
    loadControlStore lines = decodeEach decode 0 lines :=
  if_neg (Nat.not_lt.2 h)

/-- Decoding fails only by a line, never by the capacity (R153). -/
theorem decodeEach_error {α : Type} {dec : α → Except DecodeError Instr} {k : Nat} {xs : List α} {e : LoadError}
    (h : decodeEach dec k xs = .error e) : ∃ j d, e = .line j d := by
  induction xs generalizing k with
  | nil => cases h
  | cons x xs ih =>
    unfold decodeEach at h
    split at h
    next d _ =>
      cases h
      exact ⟨k, d, rfl⟩
    · split at h
      next e' hrest =>
        cases h
        exact ih hrest
      · cases h

/-- Settles O9: above the capacity the line count alone decides, and within it only a line's own error is left. -/
theorem capacityCheckOnLineCount : Obligations.CapacityCheckOnLineCount := by
  intro lines
  refine ⟨?_, fun hover => ⟨_, loadControlStore_of_overfull hover⟩⟩
  rintro ⟨k, hcap⟩
  by_contra hfits
  rw [loadControlStore_of_fits (Nat.le_of_not_lt hfits)] at hcap
  obtain ⟨_, _, hline⟩ := decodeEach_error hcap
  cases hline

/-- A list of items that all decode loads as its records, one for one and in order (R152, R154). -/
theorem decodeEach_of_map_eq {α : Type} {dec : α → Except DecodeError Instr} {xs : List α} {cs : List Instr}
    (h : cs.map .ok = xs.map dec) (k : Nat) : decodeEach dec k xs = .ok cs := by
  induction xs generalizing cs k with
  | nil =>
    obtain rfl := List.map_eq_nil_iff.1 h
    rfl
  | cons x xs ih =>
    obtain ⟨i, rest, rfl, hi, hrest⟩ := List.map_eq_cons_iff.1 h
    rw [decodeEach, ← hi, ih hrest]

/-- Items that all decode have a list of records. -/
theorem exists_map_ok_eq {α : Type} {dec : α → Except DecodeError Instr} {xs : List α}
    (h : ∀ x ∈ xs, ∃ i, dec x = .ok i) : ∃ cs : List Instr, cs.map .ok = xs.map dec := by
  rw [← Set.mem_range, Set.range_list_map]
  exact List.forall_mem_map.2 fun x hx => (h x hx).imp fun _ => Eq.symm

/-- Entry `k` of the records is the record of item `k`. -/
theorem getElem?_of_map_eq {α : Type} {dec : α → Except DecodeError Instr} {xs : List α} {cs : List Instr}
    (h : cs.map .ok = xs.map dec) {k : Nat} {x : α} (hx : xs[k]? = some x) :
    ∃ i, cs[k]? = some i ∧ dec x = .ok i := by
  have hentry : cs[k]?.map .ok = some (dec x) := by
    rw [← List.getElem?_map, h, List.getElem?_map, hx, Option.map_some]
  obtain ⟨i, hi, hdec⟩ := Option.map_eq_some_iff.1 hentry
  exact ⟨i, hi, hdec.symm⟩

/-- At most 256 lines that all decode load as their records (R154). -/
theorem exists_loadControlStore_ok {lines : List Line} (hfits : lines.length ≤ 256)
    (hdec : ∀ line ∈ lines, ∃ i, decode line = .ok i) :
    ∃ cs, loadControlStore lines = .ok cs ∧ cs.map .ok = lines.map decode := by
  obtain ⟨cs, hmap⟩ := exists_map_ok_eq hdec
  exact ⟨cs, (loadControlStore_of_fits hfits).trans (decodeEach_of_map_eq hmap 0), hmap⟩

namespace Machine

@[simp] theorem clearFlags_cs (s : State) : (clearFlags s).cs = s.cs := rfl

@[simp] theorem State.afterFetch_cs (s : State) : s.afterFetch.cs = s.cs := rfl

@[simp] theorem raiseFault_cs (r : FaultRecord) (s : State) : (raiseFault r s).cs = s.cs := rfl

@[simp] theorem enterHalted_cs (s : State) : (enterHalted s).cs = s.cs := rfl

@[simp] theorem memAccess_cs (q : MemReq) (s : State) : (memAccess q s).cs = s.cs := by
  rcases memAccess_cases q s with ⟨-, h⟩ | ⟨-, -, h⟩ | ⟨-, -, h⟩ | ⟨-, -, h⟩ | ⟨-, -, h⟩ <;> simp [h]

@[simp] theorem datapath_cs (op : AluOp) (sh : ShiftMode) (q : MemReq) (f : Fields) (s : State) :
    (datapath op sh q f s).cs = s.cs := by
  obtain ⟨-, -, -, -, hcs, -⟩ := datapathSteps_rest op sh f s
  rw [datapath, memAccess_cs, hcs]

/-- No cycle changes the control store, whether it faults, halts or completes (R154). -/
theorem step_cs {s t : State} (h : step s = .next t) : t.cs = s.cs := by
  obtain ⟨-, ⟨-, rfl⟩ | ⟨m, alu, f, -, rfl⟩ | ⟨op, sh, q, f, -, rfl⟩⟩ := step_cases h
  · rw [raiseFault_cs, clearFlags_cs]
  · rw [enterHalted_cs, State.afterFetch_cs]
  · rw [datapath_cs, State.afterFetch_cs]

end Machine

/-- Settles O10: the lines load as their records, which match them in number and order, and every transition of
a cycle keeps the control store. -/
theorem loadedControlStoreIsImmutable : Obligations.LoadedControlStoreIsImmutable := by
  refine ⟨fun lines hfits hdec => ?_, fun s t => Machine.step_cs⟩
  obtain ⟨cs, hload, hmap⟩ := exists_loadControlStore_ok hfits hdec
  have hlen : cs.length = lines.length := by simpa using congrArg List.length hmap
  exact ⟨cs, hload, hlen, fun k line hline => getElem?_of_map_eq hmap hline⟩

end Sys2Proof

/-! ## The register bus (R166, R172, R180)

Reads by bus code, reads after a write by bus code, and what no run can change of them. -/

namespace Sys2Proof

theorem BusCode.toBits_ofBits : ∀ v : BitVec 4, (BusCode.ofBits v).toBits = v := by decide

/-- No two bus codes name the same register or constant (R166). -/
theorem BusCode.ofBits_inj {c d : BitVec 4} : BusCode.ofBits c = BusCode.ofBits d ↔ c = d :=
  (Function.LeftInverse.injective BusCode.toBits_ofBits).eq_iff

namespace Machine

/-- Settles O24: each code's read is its row of the table. -/
theorem busReadTable : Obligations.BusReadTable := fun _ =>
  ⟨rfl, rfl, rfl, rfl, rfl, rfl, rfl, rfl, rfl, rfl, rfl, rfl, rfl, rfl, rfl, rfl⟩

/-- `BusRead` after `BusWrite` (R180). -/
theorem busRead_busWrite (s : State) (c d : BusCode) (v : Word) :
    busRead (busWrite s c v) d = if d = c ∧ BusCode.writable c = true then v else busRead s d :=
  busRead_setRegs_write s c d v

/-- A code names a register exactly when it is none of 5 to 9 (R180). -/
theorem writable_ofBits_iff (c : BitVec 4) :
    BusCode.writable (BusCode.ofBits c) = true ↔ ¬ (5 ≤ c.toNat ∧ c.toNat ≤ 9) := by
  rw [writable_ofBits, Bool.not_eq_true', decide_eq_false_iff_not]

/-- Settles O25: the codes name different registers, and only those outside 5 to 9 name one at all; the write sets
the register file and nothing else. -/
theorem busWriteChangesOneRegister : Obligations.BusWriteChangesOneRegister := by
  intro s c d v
  refine ⟨?_, s.regs.write (BusCode.ofBits c) v, rfl⟩
  simp only [busRead_busWrite, BusCode.ofBits_inj, writable_ofBits_iff]

/-- A constant code reads a literal or a mask of the configuration, never a register (R166, R173, R174). -/
theorem busRead_of_constant {s t : State} {c : BusCode} (h : BusCode.writable c = false) (hcfg : t.cfg = s.cfg) :
    busRead t c = busRead s c := by
  cases c with
  | zero | one | minus1 => rfl
  | amask => exact congrArg Config.amask hcfg
  | smask => exact congrArg Config.smask hcfg
  | pc | ac | sp | ir | tir | s0 | s1 | s2 | s3 | s4 | s5 => cases h

@[simp] theorem clearFlags_cfg (s : State) : (clearFlags s).cfg = s.cfg := rfl

@[simp] theorem State.afterFetch_cfg (s : State) : s.afterFetch.cfg = s.cfg := rfl

@[simp] theorem raiseFault_cfg (r : FaultRecord) (s : State) : (raiseFault r s).cfg = s.cfg := rfl

@[simp] theorem enterHalted_cfg (s : State) : (enterHalted s).cfg = s.cfg := rfl

@[simp] theorem memAccess_cfg (q : MemReq) (s : State) : (memAccess q s).cfg = s.cfg := by
  rcases memAccess_cases q s with ⟨-, h⟩ | ⟨-, -, h⟩ | ⟨-, -, h⟩ | ⟨-, -, h⟩ | ⟨-, -, h⟩ <;> simp [h]

@[simp] theorem datapath_cfg (op : AluOp) (sh : ShiftMode) (q : MemReq) (f : Fields) (s : State) :
    (datapath op sh q f s).cfg = s.cfg := by
  obtain ⟨hcfg, -⟩ := datapathSteps_rest op sh f s
  rw [datapath, memAccess_cfg, hcfg]

/-- The configuration is fixed during a run: no cycle changes it (R6, log 24). -/
theorem step_cfg {s t : State} (h : step s = .next t) : t.cfg = s.cfg := by
  obtain ⟨-, ⟨-, rfl⟩ | ⟨m, alu, f, -, rfl⟩ | ⟨op, sh, q, f, -, rfl⟩⟩ := step_cases h
  · rw [raiseFault_cfg, clearFlags_cfg]
  · rw [enterHalted_cfg, State.afterFetch_cfg]
  · rw [datapath_cfg, State.afterFetch_cfg]

/-- A run of `k + 1` steps that completes is one step and a run of `k`. -/
theorem run_succ_next {M : Host.Core} {k : Nat} {s t : M.State} (h : M.run (k + 1) s = .next t) :
    ∃ u, M.step s = .next u ∧ M.run k u = .next t := by
  unfold Host.Core.run at h
  split at h
  next u hu => exact ⟨u, hu, h⟩
  next => cases h
  next => cases h

/-- A part of the state that every step keeps, every run keeps. -/
theorem run_keeps {M : Host.Core} {α : Type} {part : M.State → α}
    (hstep : ∀ s t, M.step s = .next t → part t = part s) {k : Nat} {s t : M.State}
    (h : M.run k s = .next t) : part t = part s := by
  induction k generalizing s with
  | zero =>
    cases h
    rfl
  | succ k ih =>
    obtain ⟨u, hu, hrun⟩ := run_succ_next h
    exact (ih hrun).trans (hstep s u hu)

/-- No run changes the configuration (R6, log 24). -/
theorem run_cfg {k : Nat} {s t : State} (h : Host.Core.run Sys2Proof.core k s = .next t) : t.cfg = s.cfg :=
  run_keeps (M := Sys2Proof.core) (part := State.cfg) (fun _ _ => step_cfg) h

/-- The five constants name no register (R166, R184). -/
theorem writable_eq_false_of_mem_constants :
    ∀ c ∈ [BusCode.zero, .one, .minus1, .amask, .smask], BusCode.writable c = false := by decide

/-- Settles O27: codes 5 to 9 read literals and the configuration's masks, and no run changes the configuration. -/
theorem constantsSurviveEveryRun : Obligations.ConstantsSurviveEveryRun := fun _ _ _ c h hc =>
  busRead_of_constant (writable_eq_false_of_mem_constants c hc) (run_cfg h)

end Machine

end Sys2Proof

/-! ## The end of a datapath cycle (R210, R244, R246, R248)

Step 11's state with every field written out, and the three ways the cycle ends without a fault. -/

namespace Sys2Proof.Machine

open Sys2Proof.Claims

/-- Step 11's decision, by the conditions of R216. -/
theorem branchTaken_eq_taken (f : Fields) (z n : Bool) : branchTaken f.cond z n = taken f z n := by
  cases h : f.cond <;> simp [branchTaken, taken, h]

/-- Two states that agree on every piece of state of R37, the configuration, the control store and the sink are the
same. -/
@[ext] theorem State.ext {s t : State} (cfg : s.cfg = t.cfg) (regs : s.regs = t.regs) (mpc : s.mpc = t.mpc)
    (mar : s.mar = t.mar) (mbr : s.mbr = t.mbr) (z : s.z = t.z) (n : s.n = t.n) (bt : s.bt = t.bt)
    (runState : s.runState = t.runState) (fault : s.fault = t.fault) (mem : s.mem = t.mem) (cs : s.cs = t.cs)
    (dumps : s.dumps = t.dumps) : s = t := by
  cases s
  cases t
  simp_all only

/-- Steps 4 to 11 end with the ALU's flags and the shifter's output in the fields R210 names. -/
theorem datapathSteps_eq_atStep11 (op : AluOp) (sh : ShiftMode) (f : Fields) (s : State) :
    datapathSteps op sh f s =
      atStep11 f s (aluZero op (opA f s) (opB f s)) (aluNegative op (opA f s) (opB f s)) (shiftedOf op sh f s) := by
  have htaken : takenOf op f s = taken f (aluZero op (opA f s) (opB f s)) (aluNegative op (opA f s) (opB f s)) :=
    branchTaken_eq_taken f _ _
  have hmpc := datapathSteps_mpc op sh f s
  have hbt := datapathSteps_bt op sh f s
  rw [htaken] at hmpc hbt
  obtain ⟨hcfg, hrun, hfault, hmem, hcs, hdumps⟩ := datapathSteps_rest op sh f s
  exact State.ext hcfg (datapathSteps_regs op sh f s) hmpc (datapathSteps_mar op sh f s)
    (datapathSteps_mbr op sh f s) (datapathSteps_z op sh f s) (datapathSteps_n op sh f s) hbt hrun hfault hmem hcs
    hdumps

/-- Step 12 of a read in bounds (R244). -/
theorem memAccess_rd_inBounds {s : State} (h : s.mar.toNat < s.cfg.memSize) :
    memAccess .rd s = s.setMbr (s.mem.read s.mar.toNat) := by
  simp [memAccess, memPort, inBounds, memRead, h]

/-- The three cycles of one ALU operation and shifter mode, once the flags and the shifter's output are known. -/
theorem datapath_completes {op : AluOp} {sh : ShiftMode} {f : Fields} {s : State} {z n : Bool} {v : Word}
    (hz : aluZero op (opA f s) (opB f s) = z) (hn : aluNegative op (opA f s) (opB f s) = n)
    (hv : shift sh (aluResult op (opA f s) (opB f s)) = v) :
    endsPlain (.datapath op sh .none f) f s z n v ∧ endsRead (.datapath op sh .rd f) f s z n v ∧
      endsWrite (.datapath op sh .wr f) f s z n v := by
  have hsteps : datapathSteps op sh f s = atStep11 f s z n v := by
    subst hz hn hv
    exact datapathSteps_eq_atStep11 op sh f s
  refine ⟨?_, fun hin => ?_, fun hin => ?_⟩
  · rw [endsPlain, exec_datapath, datapath, hsteps]
    rfl
  · rw [exec_datapath, datapath, hsteps, memAccess_rd_inBounds (s := atStep11 f s z n v) hin]
    rfl
  · rw [exec_datapath, datapath_wr_inBounds op sh hin, hsteps]
    rfl

@[simp] theorem raiseFault_z (r : FaultRecord) (s : State) : (raiseFault r s).z = s.z := rfl

@[simp] theorem raiseFault_n (r : FaultRecord) (s : State) : (raiseFault r s).n = s.n := rfl

@[simp] theorem memAccess_z (q : MemReq) (s : State) : (memAccess q s).z = s.z := by
  rcases memAccess_cases q s with ⟨-, h⟩ | ⟨-, -, h⟩ | ⟨-, -, h⟩ | ⟨-, -, h⟩ | ⟨-, -, h⟩ <;> simp [h]

@[simp] theorem memAccess_n (q : MemReq) (s : State) : (memAccess q s).n = s.n := by
  rcases memAccess_cases q s with ⟨-, h⟩ | ⟨-, -, h⟩ | ⟨-, -, h⟩ | ⟨-, -, h⟩ | ⟨-, -, h⟩ <;> simp [h]

/-- The zero flag of a cycle is the ALU's, whatever the shifter, the access and a fault do (R186). -/
theorem datapath_z (op : AluOp) (sh : ShiftMode) (q : MemReq) (f : Fields) (s : State) :
    (datapath op sh q f s).z = aluZero op (aBus f s) (bBus f s) := by
  rw [datapath, memAccess_z, datapathSteps_z]

/-- The negative flag of a cycle is the ALU's, whatever the shifter, the access and a fault do (R187). -/
theorem datapath_n (op : AluOp) (sh : ShiftMode) (q : MemReq) (f : Fields) (s : State) :
    (datapath op sh q f s).n = aluNegative op (aBus f s) (bBus f s) := by
  rw [datapath, memAccess_n, datapathSteps_n]

end Sys2Proof.Machine

/-! ## The ALU on bit vectors (R185 to R192)

The model computes on unbounded integers; these are the same results and flags as bit vectors. -/

namespace Sys2Proof.Machine

open Sys2Proof.Claims

/-- The wrapped result of each operation as a bit vector (R189 to R192). -/
theorem aluResult_eq_aluWord (op : AluOp) (a b : Word) : aluResult op a b = aluWord op a b := by
  cases op with
  | add => rw [aluResult, aluRaw, BitVec.ofInt_add, BitVec.ofInt_toInt, BitVec.ofInt_toInt]; rfl
  | and | pass | inv => exact BitVec.ofInt_toInt

/-- Sixteen bits hold the raw result of every operation but `ADD` (R187). -/
theorem aluRaw_eq_toInt_aluResult {op : AluOp} (h : op ≠ .add) (a b : Word) :
    aluRaw op a b = (aluResult op a b).toInt := by
  rw [aluResult_eq_aluWord]
  cases op with
  | add => exact absurd rfl h
  | and | pass | inv => rfl

/-- Bit 15 of a word is its sign. -/
theorem getLsbD_fifteen_eq (w : Word) : w.getLsbD 15 = decide (w.toInt < 0) := by
  rw [← BitVec.msb_eq_toInt, BitVec.msb_eq_getLsbD_last]

/-- The negative flag of `AND`, `PASS` and `INV` is bit 15 of the result (R187, R190 to R192). -/
theorem aluNegative_of_ne_add {op : AluOp} (h : op ≠ .add) (a b : Word) :
    aluNegative op a b = (aluResult op a b).getLsbD 15 := by
  rw [getLsbD_fifteen_eq, aluNegative, aluRaw_eq_toInt_aluResult h]

/-- Two signed words sum to a value of 17 bits. -/
theorem toInt_add_toInt_bounds (a b : Word) : -65536 ≤ a.toInt + b.toInt ∧ a.toInt + b.toInt ≤ 65534 := by
  have ha := a.le_toInt
  have hb := b.le_toInt
  have ha' := a.toInt_lt
  have hb' := b.toInt_lt
  omega

/-- The 17-bit sum is exact (R187). -/
theorem toInt_signExtend_add (a b : Word) :
    (a.signExtend 17 + b.signExtend 17).toInt = a.toInt + b.toInt := by
  obtain ⟨hlo, hhi⟩ := toInt_add_toInt_bounds a b
  rw [BitVec.toInt_add, BitVec.toInt_signExtend_of_le (by decide), BitVec.toInt_signExtend_of_le (by decide)]
  exact Int.bmod_eq_of_le_mul_two (by omega) (by omega)

/-- The negative flag of `ADD` is bit 16 of the 17-bit sum (R187). -/
theorem aluNegative_add (a b : Word) :
    aluNegative .add a b = (a.signExtend 17 + b.signExtend 17).getLsbD 16 := by
  calc aluNegative .add a b
      = decide ((a.signExtend 17 + b.signExtend 17).toInt < 0) := by rw [toInt_signExtend_add]; rfl
    _ = (a.signExtend 17 + b.signExtend 17).getLsbD 16 := by
      rw [← BitVec.msb_eq_toInt, BitVec.msb_eq_getLsbD_last]

/-- The negative flag of each operation as a bit (R187). -/
theorem aluNegative_eq_aluSign (op : AluOp) (a b : Word) : aluNegative op a b = aluSign op a b := by
  cases op with
  | add => exact aluNegative_add a b
  | and | pass | inv => rw [aluNegative_of_ne_add (by decide), aluResult_eq_aluWord]; rfl

/-- The low sixteen bits of a word's sign extension are the word. -/
theorem setWidth_signExtend (w : Word) : (w.signExtend 17).setWidth 16 = w := by
  refine BitVec.eq_of_getLsbD_eq fun k hk => ?_
  have hk' : k < 17 := by omega
  rw [BitVec.getLsbD_setWidth, BitVec.getLsbD_signExtend]
  simp [hk, hk']

/-- The wrapped sum is the low sixteen bits of the 17-bit one (R187). -/
theorem setWidth_signExtend_add (a b : Word) :
    (a.signExtend 17 + b.signExtend 17).setWidth 16 = a + b := by
  rw [BitVec.setWidth_add _ _ (by decide), setWidth_signExtend, setWidth_signExtend]

/-- The zero flag of `ADD` by the raw sum: of the multiples of 65536 it can reach only 0 and -65536 (R186). -/
theorem aluZero_add_iff (a b : Word) :
    aluZero .add a b = true ↔ a.toInt + b.toInt = 0 ∨ a.toInt + b.toInt = -65536 := by
  obtain ⟨hlo, hhi⟩ := toInt_add_toInt_bounds a b
  have hwrap : aluResult .add a b = 0#16 ↔ (65536 : Int) ∣ a.toInt + b.toInt := by
    rw [← BitVec.toInt_inj, aluResult, BitVec.toInt_ofInt, BitVec.toInt_zero]
    exact Int.dvd_iff_bmod_eq_zero.symm
  rw [aluZero, decide_eq_true_iff, hwrap]
  omega

/-- The zero flag says that the result has no bit set (R186). -/
theorem aluZero_iff_bits (op : AluOp) (a b : Word) :
    aluZero op a b = true ↔ ∀ k, k < 16 → (aluResult op a b).getLsbD k = false := by
  rw [aluZero, decide_eq_true_iff]
  refine ⟨fun h k _ => by rw [h, BitVec.getLsbD_zero], fun h => BitVec.eq_of_getLsbD_eq fun k hk => ?_⟩
  rw [h k hk, BitVec.getLsbD_zero]

/-- The sign of the exact sum and bit 15 of the wrapped one differ exactly on a signed overflow (R187). -/
theorem aluNegative_add_ne_iff (a b : Word) :
    aluNegative .add a b ≠ (aluResult .add a b).getLsbD 15 ↔
      a.toInt + b.toInt < -32768 ∨ 32767 < a.toInt + b.toInt := by
  obtain ⟨hlo, hhi⟩ := toInt_add_toInt_bounds a b
  have hwrap : (aluResult .add a b).toInt = (a.toInt + b.toInt).bmod 65536 := BitVec.toInt_ofInt _
  rw [getLsbD_fifteen_eq, hwrap, Int.bmod_def, aluNegative, aluRaw, ne_eq, decide_eq_decide]
  omega

end Sys2Proof.Machine

/-! ## Completion of `ADD`, `AND` and `PASS`, and the ALU's two flags (R186, R187, R189 to R191) -/

namespace Sys2Proof.Machine

open Sys2Proof.Claims

/-- Settles O15: the wrapped sum of the signed operands is that of the unsigned ones; the rest is the datapath's
completion. -/
theorem addCompletes : Obligations.AddCompletes := by
  intro f s a b
  have hsum : aluResult .add a b = BitVec.ofNat 16 ((a.toNat + b.toNat) % 65536) :=
    (aluResult_eq_aluWord .add a b).trans (BitVec.eq_of_toNat_eq (by simp [aluWord]))
  exact datapath_completes (op := .add) (sh := .none) (congrArg (fun r => decide (r = 0#16)) hsum) rfl hsum

/-- Settles O16: the result is the bitwise AND of the operands. -/
theorem andCompletes : Obligations.AndCompletes := by
  intro f s
  have hand : aluResult .and (opA f s) (opB f s) = opA f s &&& opB f s := aluResult_eq_aluWord .and _ _
  exact ⟨opA f s &&& opB f s, fun k _ => BitVec.getLsbD_and, datapath_completes (op := .and) (sh := .none)
    (by rw [aluZero, hand]) (aluNegative_eq_aluSign .and _ _) hand⟩

/-- Settles O17: the result is the A operand. -/
theorem passCompletes : Obligations.PassCompletes := by
  intro f s r
  have hpass : aluResult .pass r (opB f s) = r := aluResult_eq_aluWord .pass _ _
  exact datapath_completes (op := .pass) (sh := .none)
    (by rw [aluZero, hpass]) (aluNegative_eq_aluSign .pass _ _) hpass

/-- Settles O29: the flag is of the wrapped result's bits, and no step after the ALU's writes it. -/
theorem zeroFlagOnWrappedResult : Obligations.ZeroFlagOnWrappedResult := by
  refine ⟨aluZero_iff_bits, aluZero_add_iff, fun op sh q f s t h => ?_⟩
  rw [exec_datapath] at h
  cases h
  exact datapath_z op sh q f s

/-- Settles O30: only `ADD` can leave sixteen bits, its 17-bit sum is exact, and no step after the ALU's writes the
flag. -/
theorem negativeFlagIsSignOfRawResult : Obligations.NegativeFlagIsSignOfRawResult := by
  refine ⟨fun op a b h => aluNegative_of_ne_add h a b, fun op sh q f s t h => ?_, fun a b =>
    ⟨rfl, aluNegative_add a b, ?_, aluNegative_add_ne_iff a b⟩⟩
  · rw [exec_datapath] at h
    cases h
    exact datapath_n op sh q f s
  · exact (aluResult_eq_aluWord .add a b).trans (setWidth_signExtend_add a b).symm

end Sys2Proof.Machine

/-! ## The shifter's reach (R204)

The shifter's output goes to the C bus and the `mbr` latch only: no mode stands in what a datapath cycle leaves in the
flags, `mpc` and `mar`. -/

namespace Sys2Proof.Machine

@[simp] theorem raiseFault_bt (r : FaultRecord) (s : State) : (raiseFault r s).bt = s.bt := rfl

@[simp] theorem raiseFault_mpc (r : FaultRecord) (s : State) : (raiseFault r s).mpc = s.mpc := rfl

@[simp] theorem raiseFault_mar (r : FaultRecord) (s : State) : (raiseFault r s).mar = s.mar := rfl

/-- Step 12 leaves the branch and the address latch as step 11 did, with or without a fault (R244, R246, R248). -/
theorem memAccess_keeps_branch_and_mar (q : MemReq) (s : State) :
    (memAccess q s).bt = s.bt ∧ (memAccess q s).mpc = s.mpc ∧ (memAccess q s).mar = s.mar := by
  rcases memAccess_cases q s with ⟨-, h⟩ | ⟨-, -, h⟩ | ⟨-, -, h⟩ | ⟨-, -, h⟩ | ⟨-, -, h⟩ <;> simp [h]

/-- A cycle branches on the ALU's flags, whatever the shifter, the access and a fault do (R216). -/
theorem datapath_bt (op : AluOp) (sh : ShiftMode) (q : MemReq) (f : Fields) (s : State) :
    (datapath op sh q f s).bt = (takenOf op f s || s.bt) := by
  obtain ⟨hbt, -, -⟩ := memAccess_keeps_branch_and_mar q (datapathSteps op sh f s)
  rw [datapath, hbt, datapathSteps_bt]

/-- The next `mpc` follows the ALU's flags, whatever the shifter, the access and a fault do (R216). -/
theorem datapath_mpc (op : AluOp) (sh : ShiftMode) (q : MemReq) (f : Fields) (s : State) :
    (datapath op sh q f s).mpc = if takenOf op f s then branchTarget f else s.mpc := by
  obtain ⟨-, hmpc, -⟩ := memAccess_keeps_branch_and_mar q (datapathSteps op sh f s)
  rw [datapath, hmpc, datapathSteps_mpc]

/-- The address latch holds what step 6 put there, whatever the shifter, the access and a fault do (R240). -/
theorem datapath_mar (op : AluOp) (sh : ShiftMode) (q : MemReq) (f : Fields) (s : State) :
    (datapath op sh q f s).mar = marAfter f s := by
  obtain ⟨-, -, hmar⟩ := memAccess_keeps_branch_and_mar q (datapathSteps op sh f s)
  rw [datapath, hmar, datapathSteps_mar]

/-- Settles O33: each of the five is a function of the operation, the fields and the state before, with no shifter mode
in it. -/
theorem flagsIgnoreTheShifter : Obligations.FlagsIgnoreTheShifter := by
  intro op sh sh' q f s t t' h h'
  rw [exec_datapath] at h h'
  cases h
  cases h'
  exact ⟨by rw [datapath_z, datapath_z], by rw [datapath_n, datapath_n], by rw [datapath_bt, datapath_bt],
    by rw [datapath_mpc, datapath_mpc], by rw [datapath_mar, datapath_mar]⟩

end Sys2Proof.Machine

/-! ## One cycle, by what it fetches (R210 to R216, R228)

What a cycle of a Running machine does when something, and when nothing, is loaded at `mpc`; then the cycle's branch,
its totality and HALT. -/

namespace Sys2Proof.Machine

@[simp] theorem State.afterFetch_bt (s : State) : s.afterFetch.bt = false := rfl

@[simp] theorem State.afterFetch_mpc (s : State) : s.afterFetch.mpc = s.mpc + 1 := rfl

/-- A cycle executes the microinstruction loaded at `mpc` on the state steps 1 and 2 leave (R210 to R213). -/
theorem step_of_fetch {s : State} {i : Instr} (hrun : s.runState = .running) (hc : s.cs[s.mpc.toNat]? = some i) :
    step s = exec i s.afterFetch := by
  have hfetch : fetch (clearFlags s) = (some i, s.afterFetch) := by
    have hc' : (clearFlags s).cs[(clearFlags s).mpc.toNat]? = some i := hc
    rw [fetch, hc']
    rfl
  simp only [step, hrun, hfetch]

/-- A cycle with nothing loaded at `mpc` is the InternalFault of that index (R158, R269). -/
theorem step_of_fetch_none {s : State} (hrun : s.runState = .running) (hc : s.cs[s.mpc.toNat]? = none) :
    step s = .next (raiseFault (.internalFault s.mpc) (clearFlags s)) := by
  have hfetch : fetch (clearFlags s) = (none, raiseFault (.internalFault s.mpc) (clearFlags s)) := by
    have hc' : (clearFlags s).cs[(clearFlags s).mpc.toNat]? = none := hc
    rw [fetch, hc']
    rfl
  simp only [step, hrun, hfetch]

/-- A cycle with a datapath microinstruction at `mpc` is its steps 4 to 12 (R210). -/
theorem step_runs_datapath {s t : State} (h : step s = .next t) {op : AluOp} {sh : ShiftMode} {q : MemReq}
    {f : Fields} (hc : s.cs[s.mpc.toNat]? = some (.datapath op sh q f)) : t = datapath op sh q f s.afterFetch := by
  obtain ⟨hrun, -⟩ := step_cases h
  rw [step_of_fetch hrun hc, exec_datapath] at h
  cases h
  rfl

/-- `bt` at the end of a cycle is the branch condition on the flags the cycle ends with (R216). -/
theorem datapath_afterFetch_bt (op : AluOp) (sh : ShiftMode) (q : MemReq) (f : Fields) (s : State) :
    (datapath op sh q f s.afterFetch).bt =
      branchTaken f.cond (datapath op sh q f s.afterFetch).z (datapath op sh q f s.afterFetch).n := by
  rw [datapath_bt, State.afterFetch_bt, Bool.or_false, datapath_z, datapath_n, takenOf]

/-- The next `mpc` is `ADDR` zero-extended when `bt` is set, and the incremented value when not (R216). -/
theorem datapath_afterFetch_mpc (op : AluOp) (sh : ShiftMode) (q : MemReq) (f : Fields) (s : State) :
    (datapath op sh q f s.afterFetch).mpc =
      if (datapath op sh q f s.afterFetch).bt then f.addr.setWidth 9 else s.mpc + 1 := by
  rw [datapath_mpc, datapath_bt, State.afterFetch_bt, Bool.or_false, State.afterFetch_mpc, branchTarget]

/-- Settles O35: the cycle's `bt` is the branch condition on the cycle's own flags, and `mpc` follows `bt`. -/
theorem branchOnFlagsOfSameCycle : Obligations.BranchOnFlagsOfSameCycle := by
  intro op sh q f s t hc h
  obtain rfl := step_runs_datapath h hc
  have hbt := datapath_afterFetch_bt op sh q f s
  refine ⟨fun hcond => ?_, fun hcond => ?_, fun hcond => ?_, fun hcond => ?_, datapath_afterFetch_mpc op sh q f s⟩ <;>
    rwa [hcond] at hbt

/-- The legal microinstructions are those of the HALT and the datapath classes (R98, R101). -/
theorem wellFormed_cases {i : Instr} (h : i.wellFormed = true) :
    (∃ m alu f, i = .halting m alu f) ∨ ∃ op sh q f, i = .datapath op sh q f := by
  rcases instr_cases i with ⟨alu, rd, wr, f, rfl⟩ | hclass
  · cases h
  · exact hclass

/-- A legal microinstruction executes in every state: its faults are next states (R228, R268). -/
theorem exists_exec_next {i : Instr} (h : i.wellFormed = true) (s : State) : ∃ t, exec i s = .next t := by
  rcases wellFormed_cases h with ⟨m, alu, f, rfl⟩ | ⟨op, sh, q, f, rfl⟩
  · exact ⟨_, exec_halting m alu f s⟩
  · exact ⟨_, exec_datapath op sh q f s⟩

/-- What a legal control store holds at any index is legal (R153). -/
theorem wellFormed_of_getElem? {cs : List Instr} (h : csWellFormed cs = true) {k : Nat} {i : Instr}
    (hk : cs[k]? = some i) : i.wellFormed = true := by
  obtain ⟨-, hall⟩ := (Bool.and_eq_true _ _).mp h
  exact List.all_eq_true.1 hall i (List.mem_of_getElem? hk)

/-- Settles O39: outside the store the fetch faults, which is a next state, and inside it stands a legal
microinstruction. -/
theorem runningMachineAlwaysSteps : Obligations.RunningMachineAlwaysSteps := by
  intro s hcs hrun
  cases hc : s.cs[s.mpc.toNat]? with
  | none => exact ⟨_, step_of_fetch_none hrun hc⟩
  | some i =>
    rw [step_of_fetch hrun hc]
    exact exists_exec_next (wellFormed_of_getElem? hcs hc) s.afterFetch

/-- Settles O21: the three HALT rows enter Halted and do nothing else, and a cycle runs them on the state steps 1 and 2
leave. -/
theorem haltCompletes : Obligations.HaltCompletes := by
  intro alu f s
  refine ⟨exec_halting .none alu f s, exec_halting .rsh alu f s, exec_halting .lsh alu f s, fun m hrun hc => ?_⟩
  rw [step_of_fetch hrun hc, exec_halting]
  rfl

end Sys2Proof.Machine

/-! ## Read requests (R244, R266)

A datapath microinstruction with `RD` is the one without a request followed by step 12: a load of `mbr` in bounds, the
Faulted transition with a MemoryFault out of bounds. -/

namespace Sys2Proof.Machine

open Sys2Proof.Claims

/-- The Faulted transition changes the sequencer's state, the fault record and the sink only (R268). -/
theorem raiseFault_eq_faultedWith (r : FaultRecord) (s : State) : raiseFault r s = faultedWith r s := rfl

/-- The Faulted transition hands over one snapshot, and it is of the state it ends in (R268). -/
theorem raiseFault_dumps (r : FaultRecord) (s : State) :
    (raiseFault r s).dumps = s.dumps ++ [snapshotOf (raiseFault r s) r] := rfl

/-- Step 12 of a read out of bounds (R244). -/
theorem memAccess_rd_outOfBounds {s : State} (h : s.cfg.memSize ≤ s.mar.toNat) :
    memAccess .rd s = raiseFault (.memoryFault s.mar) s := by
  simp [memAccess, memPort, inBounds, Nat.not_lt.2 h]

/-- With no request the cycle ends as step 11 leaves it (R210). -/
theorem datapath_none (op : AluOp) (sh : ShiftMode) (f : Fields) (s : State) :
    datapath op sh .none f s = datapathSteps op sh f s := rfl

/-- A read form in bounds ends with step 11's state and the addressed word in `mbr` (R244). -/
theorem datapath_rd_inBounds (op : AluOp) (sh : ShiftMode) {f : Fields} {s : State}
    (h : (s.accessAddr f).toNat < s.cfg.memSize) :
    datapath op sh .rd f s = (datapathSteps op sh f s).setMbr (s.mem.read (s.accessAddr f).toNat) := by
  obtain ⟨hcfg, -, -, hmem, -, -⟩ := datapathSteps_rest op sh f s
  have hmar := datapathSteps_mar_eq_accessAddr op sh f s
  rw [datapath, memAccess_rd_inBounds (by rw [hmar, hcfg]; exact h), hmar, hmem]

/-- A read form out of bounds ends in the MemoryFault of the address, taken on step 11's state (R244). -/
theorem datapath_rd_outOfBounds (op : AluOp) (sh : ShiftMode) {f : Fields} {s : State}
    (h : s.cfg.memSize ≤ (s.accessAddr f).toNat) :
    datapath op sh .rd f s = raiseFault (.memoryFault (s.accessAddr f)) (datapathSteps op sh f s) := by
  obtain ⟨hcfg, -⟩ := datapathSteps_rest op sh f s
  have hmar := datapathSteps_mar_eq_accessAddr op sh f s
  rw [datapath, memAccess_rd_outOfBounds (by rw [hmar, hcfg]; exact h), hmar]

/-- Settles O40: without the request the cycle ends as step 11 leaves it, and step 12 loads `mbr` of that state or is
the Faulted transition on it. -/
theorem readRequestLoadsOrFaults : Obligations.ReadRequestLoadsOrFaults := by
  intro op sh f s
  have hmar := datapathSteps_mar_eq_accessAddr op sh f s
  refine ⟨datapathSteps op sh f s, by rw [exec_datapath, datapath_none], hmar, fun hin => ?_, fun hout => ?_⟩
  · rw [hmar] at hin
    rw [exec_datapath, datapath_rd_inBounds op sh hin, State.setMbr, ← hmar]
  · rw [hmar] at hout
    rw [exec_datapath, datapath_rd_outOfBounds op sh hout, raiseFault_eq_faultedWith, hmar]

/-- Settles O44: the read ends in the Faulted transition, after which no cycle runs; without the request the cycle ends
as step 11 leaves it, and no step up to there touches the sequencer's state, the record or the sink. -/
theorem memoryFaultIsTerminal : Obligations.MemoryFaultIsTerminal := by
  intro op sh f s hout
  obtain ⟨-, hrun, hfault, -, -, hdumps⟩ := datapathSteps_rest op sh f s
  constructor
  · refine ⟨_, exec_datapath op sh .rd f s, ?_⟩
    rw [datapath_rd_outOfBounds op sh hout]
    exact ⟨raiseFault_runState _ _, raiseFault_fault _ _, by rw [raiseFault_dumps, hdumps],
      step_of_faulted (raiseFault_runState _ _)⟩
  · exact ⟨_, exec_datapath op sh .none f s, hrun, hfault, hdumps⟩

end Sys2Proof.Machine

/-! ## The Faulted transition (R268)

A cycle either ends in the Faulted transition, with the sink as it was up to there, or leaves the record and the sink
alone. -/

namespace Sys2Proof.Machine

@[simp] theorem State.afterFetch_fault (s : State) : s.afterFetch.fault = s.fault := rfl

@[simp] theorem State.afterFetch_dumps (s : State) : s.afterFetch.dumps = s.dumps := rfl

@[simp] theorem clearFlags_dumps (s : State) : (clearFlags s).dumps = s.dumps := rfl

@[simp] theorem enterHalted_fault (s : State) : (enterHalted s).fault = s.fault := rfl

@[simp] theorem enterHalted_dumps (s : State) : (enterHalted s).dumps = s.dumps := rfl

/-- Step 12 hands over a snapshot only in the Faulted transition (R268). -/
theorem memAccess_dumps_of_not_faulted {q : MemReq} {s : State} (hend : (memAccess q s).runState ≠ .faulted) :
    (memAccess q s).dumps = s.dumps := by
  rcases memAccess_cases q s with ⟨-, h⟩ | ⟨-, -, h⟩ | ⟨-, -, h⟩ | ⟨-, -, h⟩ | ⟨-, -, h⟩
  · rw [h]
  · rw [h, State.setMbr_dumps]
  · exact absurd (by rw [h, raiseFault_runState]) hend
  · rw [h, State.setMem_dumps]
  · exact absurd (by rw [h, raiseFault_runState]) hend

/-- Steps 4 to 12 hand over a snapshot only in the Faulted transition (R268). -/
theorem datapath_dumps_of_not_faulted {op : AluOp} {sh : ShiftMode} {q : MemReq} {f : Fields} {s : State}
    (hend : (datapath op sh q f s).runState ≠ .faulted) : (datapath op sh q f s).dumps = s.dumps := by
  obtain ⟨-, -, -, -, -, hdumps⟩ := datapathSteps_rest op sh f s
  exact (memAccess_dumps_of_not_faulted hend).trans hdumps

/-- A cycle ends in the Faulted transition, before which it handed nothing over, or it ends elsewhere and leaves the
sink and the record alone (R268). -/
theorem step_faults_or_keeps_record {s t : State} (h : step s = .next t) :
    (∃ r u, u.dumps = s.dumps ∧ t = raiseFault r u) ∨
    (t.runState ≠ .faulted ∧ t.dumps = s.dumps ∧ t.fault = s.fault) := by
  obtain ⟨hrun, ⟨-, rfl⟩ | ⟨m, alu, f, -, rfl⟩ | ⟨op, sh, q, f, -, rfl⟩⟩ := step_cases h
  · exact .inl ⟨_, _, clearFlags_dumps s, rfl⟩
  · exact .inr ⟨by simp, by simp, by simp⟩
  · rcases datapath_keeps_or_faults op sh q f s.afterFetch with ⟨hstate, hfault⟩ | ⟨r, hr⟩
    · have hend : (datapath op sh q f s.afterFetch).runState ≠ .faulted := by simp [hstate, hrun]
      exact .inr ⟨hend, datapath_dumps_of_not_faulted hend, hfault⟩
    · obtain ⟨-, -, -, -, -, hdumps⟩ := datapathSteps_rest op sh f s.afterFetch
      exact .inl ⟨r, _, hdumps, hr⟩

/-- Settles O45: the Faulted transition writes the record, appends one snapshot and leaves a machine that is stuck, and
a cycle without it leaves the sink and the record alone. -/
theorem faultedTransition : Obligations.FaultedTransition := by
  intro s t h
  rcases step_faults_or_keeps_record h with ⟨r, u, hdumps, rfl⟩ | ⟨hend, hkept⟩
  · have hfaulted := raiseFault_runState r u
    exact ⟨fun _ => ⟨r, raiseFault_fault r u, by rw [raiseFault_dumps, hdumps], step_of_faulted hfaulted⟩,
      fun hend => absurd hfaulted hend⟩
  · exact ⟨fun hfaulted => absurd hfaulted hend, fun _ => hkept⟩

end Sys2Proof.Machine

/-! ## The round trip and the opcode table (R111, R141)

The word and the record hold the same bits, and the record and the microinstruction the same fields; the rows of the
table then divide the words by the microinstruction's mnemonic. -/

namespace Sys2Proof

/-- The thirteen fields fill the word, so putting them back gives it again (R91). -/
theorem encodeWord_extract (w : MicroWord) : encodeWord (extract w) = w := by
  apply BitVec.eq_of_getLsbD_eq
  intro i hi
  interval_cases i <;> simp [encodeWord, extract]

/-- A slice of a sum of fields in place sees one field only. -/
theorem extract_encodeWord (r : Record) : extract (encodeWord r) = r := by
  cases r
  simp only [extract, encodeWord, Record.mk.injEq]
  refine ⟨?_, ?_, ?_, ?_, ?_, ?_, ?_, ?_, ?_, ?_, ?_, ?_, ?_⟩ <;>
    refine BitVec.eq_of_getLsbD_eq fun i hi => ?_ <;> interval_cases i <;> simp

@[simp] theorem bitOf_bit : ∀ v : BitVec 1, bitOf (bit v) = v := by decide

@[simp] theorem Cond.toBits_ofBits : ∀ v : BitVec 2, (Cond.ofBits v).toBits = v := by decide

@[simp] theorem AluOp.toBits_ofBits : ∀ v : BitVec 2, (AluOp.ofBits v).toBits = v := by decide

/-- The `RD` and `WR` bits of a memory action (R98). -/
def MemReq.bits : MemReq → BitVec 1 × BitVec 1
  | .none => (0#1, 0#1)
  | .rd => (1#1, 0#1)
  | .wr => (0#1, 1#1)

theorem toRecord_datapath (op : AluOp) (sh : ShiftMode) (q : MemReq) (f : Fields) :
    (Instr.datapath op sh q f).toRecord = f.record op.toBits sh.toBits q.bits.1 q.bits.2 := by
  cases op <;> cases sh <;> cases q <;> rfl

theorem toRecord_halting (m : ShiftMode) (alu : AluOp) (f : Fields) :
    (Instr.halting m alu f).toRecord = f.record alu.toBits m.toBits 1#1 1#1 := by
  cases m <;> rfl

@[simp] theorem fields_record (f : Fields) (alu sh : BitVec 2) (rd wr : BitVec 1) :
    (f.record alu sh rd wr).fields = f := by
  simp [Fields.record, Record.fields]

@[simp] theorem record_fields (r : Record) : r.fields.record r.alu r.sh r.rd r.wr = r := by
  simp [Fields.record, Record.fields, BusCode.toBits_ofBits]

/-- The class of a record is the class of the microinstruction it came from (R98). -/
theorem toInstr_toRecord (i : Instr) : i.toRecord.toInstr = i := by
  rcases Machine.instr_cases i with ⟨alu, rd, wr, f, rfl⟩ | ⟨m, alu, f, rfl⟩ | ⟨op, sh, q, f, rfl⟩
  · have hrecord : (Instr.illegal alu rd wr f).toRecord = f.record alu.toBits 3#2 (bitOf rd) (bitOf wr) := rfl
    rw [hrecord, Record.toInstr, fields_record]
    cases rd <;> cases wr <;> simp [Fields.record, ShiftMode.ofBits]
  · rw [toRecord_halting, Record.toInstr, fields_record]
    simp [Fields.record, bit]
  · rw [toRecord_datapath, Record.toInstr, fields_record]
    cases q <;> simp [Fields.record, MemReq.bits, bit]

/-- Two bits of `SH` are the illegal value or a mode's number (R100). -/
theorem sh_eq_three_or_mode (v : BitVec 2) : v = 3#2 ∨ ∃ m : ShiftMode, v = m.toBits := by
  have hvalues : ∀ v : BitVec 2, v = 3#2 ∨ v = 0#2 ∨ v = 1#2 ∨ v = 2#2 := by decide
  rcases hvalues v with h | h | h | h
  · exact .inl h
  · exact .inr ⟨.none, h⟩
  · exact .inr ⟨.rsh, h⟩
  · exact .inr ⟨.lsh, h⟩

/-- The `RD` and `WR` bits are those of HALT or a memory action's (R98). -/
theorem rd_wr_eq_halt_or_memReq (rd wr : BitVec 1) : (rd = 1#1 ∧ wr = 1#1) ∨ ∃ q : MemReq, q.bits = (rd, wr) := by
  have hvalues : ∀ v : BitVec 1, v = 0#1 ∨ v = 1#1 := by decide
  rcases hvalues rd with rfl | rfl <;> rcases hvalues wr with rfl | rfl
  · exact .inr ⟨.none, rfl⟩
  · exact .inr ⟨.wr, rfl⟩
  · exact .inr ⟨.rd, rfl⟩
  · exact .inl ⟨rfl, rfl⟩

/-- The microinstruction of a record whose `SH` names a mode and whose `RD` and `WR` a memory action (R98). -/
theorem toRecord_datapath_of_record {r : Record} {m : ShiftMode} {q : MemReq} (hsh : r.sh = m.toBits)
    (hq : q.bits = (r.rd, r.wr)) : (Instr.datapath (AluOp.ofBits r.alu) m q r.fields).toRecord = r := by
  rw [toRecord_datapath, AluOp.toBits_ofBits, ← hsh, hq, record_fields]

/-- Every record is a microinstruction's: the rows leave no word out (R98, R111). -/
theorem exists_toRecord_eq (r : Record) : ∃ i : Instr, i.toRecord = r := by
  have halu := AluOp.toBits_ofBits r.alu
  have hrecord := record_fields r
  rcases sh_eq_three_or_mode r.sh with hsh | ⟨m, hsh⟩
  · exact ⟨.illegal (AluOp.ofBits r.alu) (bit r.rd) (bit r.wr) r.fields, by
      simpa only [Instr.toRecord, halu, bitOf_bit, hsh] using hrecord⟩
  · rcases rd_wr_eq_halt_or_memReq r.rd r.wr with ⟨hrd, hwr⟩ | ⟨q, hq⟩
    · exact ⟨.halting m (AluOp.ofBits r.alu) r.fields, by
        simpa only [toRecord_halting, halu, hsh, hrd, hwr] using hrecord⟩
    · exact ⟨_, toRecord_datapath_of_record hsh hq⟩

/-- The microinstruction of a record keeps all of it. -/
theorem toRecord_toInstr (r : Record) : r.toInstr.toRecord = r := by
  obtain ⟨i, rfl⟩ := exists_toRecord_eq r
  rw [toInstr_toRecord]

/-- Classifying the word of a microinstruction gives it back, illegal or not (R111). -/
theorem classify_encode (i : Instr) : classify (encode i) = i := by
  rw [classify, encode, extract_encodeWord, toInstr_toRecord]

/-- The word of what a word is classified as is the word. -/
theorem encode_classify (w : MicroWord) : encode (classify w) = w := by
  rw [classify, encode, toRecord_toInstr, encodeWord_extract]

theorem wellFormed_datapath (op : AluOp) (sh : ShiftMode) (q : MemReq) (f : Fields) :
    (Instr.datapath op sh q f).wellFormed = true := by
  cases op <;> cases sh <;> cases q <;> rfl

theorem wellFormed_halting (m : ShiftMode) (alu : AluOp) (f : Fields) :
    (Instr.halting m alu f).wellFormed = true := by
  cases m <;> rfl

/-- The modes' numbers are the legal values of `SH` (R100). -/
theorem ShiftMode.toBits_ne_three (m : ShiftMode) : m.toBits ≠ 3#2 := by
  cases m <;> decide

/-- A microinstruction is well-formed exactly when the decoder accepts its word (R101). -/
theorem wellFormed_iff_encode_legal (i : Instr) :
    i.wellFormed = true ↔ encode i &&& 0x06000000#32 ≠ 0x06000000#32 := by
  have hsh : (extract (encode i)).sh = i.toRecord.sh := by rw [encode, extract_encodeWord]
  rw [Ne, and_shMask_eq_iff, hsh]
  rcases Machine.instr_cases i with ⟨alu, rd, wr, f, rfl⟩ | ⟨m, alu, f, rfl⟩ | ⟨op, sh, q, f, rfl⟩
  · exact iff_of_false Bool.false_ne_true (not_not.2 rfl)
  · rw [toRecord_halting]
    exact iff_of_true (wellFormed_halting m alu f) m.toBits_ne_three
  · rw [toRecord_datapath]
    exact iff_of_true (wellFormed_datapath op sh q f) sh.toBits_ne_three

/-- The decoder gives back the microinstruction it was given the word of (R141). -/
theorem decodeWord_encode {i : Instr} (h : i.wellFormed = true) : decodeWord (encode i) = .ok i := by
  rw [decodeWord_of_legal ((wellFormed_iff_encode_legal i).1 h), classify_encode]

/-- What the decoder answers is the word's class, and the word is legal. -/
theorem decodeWord_ok {w : MicroWord} {i : Instr} (h : decodeWord w = .ok i) :
    i = classify w ∧ w &&& 0x06000000#32 ≠ 0x06000000#32 := by
  have hlegal := (exists_decodeWord_ok_iff w).1 ⟨i, h⟩
  rw [decodeWord_of_legal hlegal] at h
  exact ⟨(Except.ok.inj h).symm, hlegal⟩

/-- The word of what the decoder answers is the word decoded (R141). -/
theorem encode_of_decodeWord {w : MicroWord} {i : Instr} (h : decodeWord w = .ok i) : encode i = w := by
  obtain ⟨rfl, -⟩ := decodeWord_ok h
  exact encode_classify w

/-- The decoder never answers an illegal microinstruction (R101). -/
theorem wellFormed_of_decodeWord {w : MicroWord} {i : Instr} (h : decodeWord w = .ok i) : i.wellFormed = true := by
  obtain ⟨-, hlegal⟩ := decodeWord_ok h
  rw [wellFormed_iff_encode_legal, encode_of_decodeWord h]
  exact hlegal

/-- Settles O5: extraction undoes the placing of the thirteen fields and the class of a record undoes its making, and
both the other way round. -/
theorem decodeEncodeRoundTrip : Obligations.DecodeEncodeRoundTrip :=
  ⟨fun _ => decodeWord_encode, fun _ _ h => ⟨encode_of_decodeWord h, wellFormed_of_decodeWord h⟩⟩

end Sys2Proof

namespace Sys2Proof

open Laws.RowMatch in
/-- Every microinstruction's word falls in the row that bears its mnemonic (R111). -/
theorem rowMatch (i : Instr) : Statement i := by
  cases i
  exacts [illegal _ _ _ _, halt _ _, haltSh1 _ _, haltSh2 _ _,
    add _, addRd _, addWr _, addRsh _, addRshRd _, addRshWr _, addLsh _, addLshRd _, addLshWr _,
    and _, andRd _, andWr _, andRsh _, andRshRd _, andRshWr _, andLsh _, andLshRd _, andLshWr _,
    pass _, passRd _, passWr _, passRsh _, passRshRd _, passRshWr _, passLsh _, passLshRd _, passLshWr _,
    inv _, invRd _, invWr _, invRsh _, invRshRd _, invRshWr _, invLsh _, invLshRd _, invLshWr _]

/-- A word falls in a row with the mnemonic of its class (R111). -/
theorem exists_row_of_word (w : MicroWord) :
    ∃ row ∈ opcodeTable, row.mnemonic = (classify w).mnemonic ∧ w &&& row.mask = row.value := by
  obtain ⟨row, hmem, hname, hword⟩ := rowMatch (classify w)
  rw [encode_classify] at hword
  exact ⟨row, hmem, hname, hword⟩

theorem opcodeTable_mnemonics_nodup : (opcodeTable.map Row.mnemonic).Nodup := by decide

/-- Any two rows differ in a bit that both fix (R111). -/
theorem opcodeTable_pairwise_disjoint :
    opcodeTable.Pairwise fun row row' => row.value &&& row'.mask ≠ row'.value &&& row.mask := by
  decide

/-- Two rows a word falls in agree on the bits both fix. -/
theorem value_and_mask_comm {w : MicroWord} {row row' : Row} (h : w &&& row.mask = row.value)
    (h' : w &&& row'.mask = row'.value) : row.value &&& row'.mask = row'.value &&& row.mask := by
  rw [← h, ← h', BitVec.and_assoc, BitVec.and_assoc, BitVec.and_comm row.mask]

/-- No word falls in two rows (R111). -/
theorem row_eq_of_word {w : MicroWord} {row row' : Row} (hmem : row ∈ opcodeTable) (hmem' : row' ∈ opcodeTable)
    (h : w &&& row.mask = row.value) (h' : w &&& row'.mask = row'.value) : row = row' := by
  by_contra hne
  have hsymm : Std.Symm fun row row' : Row => row.value &&& row'.mask ≠ row'.value &&& row.mask :=
    ⟨fun _ _ => Ne.symm⟩
  exact opcodeTable_pairwise_disjoint.forall hmem hmem' hne (value_and_mask_comm h h')

/-- The row a word falls in is the one that bears the mnemonic of its class (R111). -/
theorem word_in_row_iff (w : MicroWord) {row : Row} (hmem : row ∈ opcodeTable) :
    w &&& row.mask = row.value ↔ row.mnemonic = (classify w).mnemonic := by
  obtain ⟨row', hmem', hname, hword⟩ := exists_row_of_word w
  constructor
  · intro h
    rw [row_eq_of_word hmem hmem' h hword, hname]
  · intro h
    rwa [List.inj_on_of_nodup_map opcodeTable_mnemonics_nodup hmem hmem' (h.trans hname.symm)]

/-- Settles O6: the rows' words are disjoint, and every word falls in the row that bears its class's mnemonic. -/
theorem oneRowForEveryWord : Obligations.OneRowForEveryWord := by
  refine ⟨rfl, opcodeTable_mnemonics_nodup, fun w => ?_, fun w row hmem => word_in_row_iff w hmem⟩
  obtain ⟨row, hmem, -, hword⟩ := exists_row_of_word w
  exact ⟨row, ⟨hmem, hword⟩, fun row' ⟨hmem', hword'⟩ => row_eq_of_word hmem' hmem hword' hword⟩

/-- Settles O8: each word is decoded. -/
theorem wordsOfEachFamilyDecode : Obligations.WordsOfEachFamilyDecode :=
  ⟨by decide, by decide, by decide, by decide, by decide, by decide⟩

end Sys2Proof

/-! ## Lines and words (R9, R78, R133)

A line of binary digits read as a numeral, bit by bit; then the control-store decoder's verdict on every line, and the
program lines' words. -/

namespace Sys2Proof

/-- One more character of a line is one more digit at the low end. -/
theorem lineValue_append_singleton (line : Line) (c : Char) :
    lineValue (line ++ [c]) = 2 * lineValue line + if c == '1' then 1 else 0 := by
  rw [lineValue, List.foldl_append]
  rfl

/-- The character at offset `k` is bit `length - 1 - k` of the numeral (R9). -/
theorem testBit_lineValue (line : Line) {k : Nat} (hk : k < line.length) :
    (lineValue line).testBit (line.length - 1 - k) = ((line)[k]? == some '1') := by
  induction line using List.reverseRecOn with
  | nil => cases hk
  | append_singleton line c ih =>
    rw [List.length_append, List.length_singleton] at hk ⊢
    rw [lineValue_append_singleton]
    rcases Nat.lt_or_ge k line.length with hlt | hge
    · have hbit : line.length + 1 - 1 - k = (line.length - 1 - k) + 1 := by omega
      have hdiv : (2 * lineValue line + if c == '1' then 1 else 0) / 2 = lineValue line := by
        split <;> omega
      rw [List.getElem?_append_left hlt, ← ih hlt, hbit, Nat.testBit_succ, hdiv]
    · obtain rfl : k = line.length := by omega
      rw [List.getElem?_concat_length, Nat.add_sub_cancel, Nat.sub_self, Nat.testBit_zero]
      by_cases hc : c = '1' <;> simp [hc]

/-- The character at offset `k` is bit `n - 1 - k` of the word of `n` bits a line of `n` characters spells. -/
theorem getLsbD_lineValue {n : Nat} {line : Line} (hlen : line.length = n) {k : Nat} (hk : k < n) :
    (BitVec.ofNat n (lineValue line)).getLsbD (n - 1 - k) = ((line)[k]? == some '1') := by
  have hlt : n - 1 - k < n := by omega
  rw [BitVec.getLsbD_ofNat, decide_eq_true hlt, Bool.true_and, ← hlen, testBit_lineValue line (hlen ▸ hk)]

theorem decodeLine_of_binary {line : Line} (hlen : line.length = 32) (hbin : ∀ c ∈ line, c = '0' ∨ c = '1') :
    decodeLine line = .ok (BitVec.ofNat 32 (lineValue line)) := by
  have hall : line.all isBinary = true := List.all_eq_true.2 fun c hc => (isBinary_iff c).2 (hbin c hc)
  rw [decodeLine, if_neg (not_not.2 hlen), if_pos hall]

/-- The word `DecodeLine` answers is the numeral the line spells (R133). -/
theorem decodeLine_ok_eq {line : Line} {w : MicroWord} (h : decodeLine line = .ok w) :
    w = BitVec.ofNat 32 (lineValue line) := by
  obtain ⟨hlen, hbin⟩ := decodeLine_ok h
  rw [decodeLine_of_binary hlen hbin] at h
  exact (Except.ok.inj h).symm

theorem getLsbD_of_decodeLine {line : Line} {w : MicroWord} (h : decodeLine line = .ok w) {k : Nat} (hk : k < 32) :
    w.getLsbD (31 - k) = ((line)[k]? == some '1') := by
  obtain ⟨hlen, -⟩ := decodeLine_ok h
  rw [decodeLine_ok_eq h]
  exact getLsbD_lineValue hlen hk

theorem lineOfWord_length (w : MicroWord) : (lineOfWord w).length = 32 := by
  simp [lineOfWord]

theorem lineOfWord_binary (w : MicroWord) : ∀ c ∈ lineOfWord w, c = '0' ∨ c = '1' := by
  refine List.forall_mem_map.2 fun k _ => ?_
  split
  · exact .inr rfl
  · exact .inl rfl

theorem lineOfWord_getElem? (w : MicroWord) {k : Nat} (hk : k < 32) :
    ((lineOfWord w)[k]? == some '1') = w.getLsbD (31 - k) := by
  rw [lineOfWord, List.getElem?_map, List.getElem?_range hk]
  cases h : w.getLsbD (31 - k) <;> simp [h]

/-- Reading the line of a word gives the word (R133). -/
theorem decodeLine_lineOfWord (w : MicroWord) : decodeLine (lineOfWord w) = .ok w := by
  rw [decodeLine_of_binary (lineOfWord_length w) (lineOfWord_binary w)]
  refine congrArg Except.ok (BitVec.eq_of_getLsbD_eq fun i hi => ?_)
  obtain ⟨k, hk, rfl⟩ : ∃ k, k < 32 ∧ i = 31 - k := ⟨31 - i, by omega, by omega⟩
  rw [← lineOfWord_getElem? w hk]
  exact getLsbD_lineValue (lineOfWord_length w) hk

/-- Settles O3: a line is a numeral with its first character on top, and printing puts bit 31 there. -/
theorem lineSpellsItsWord : Obligations.LineSpellsItsWord :=
  ⟨fun _ _ h _ => getLsbD_of_decodeLine h, decodeLine_lineOfWord⟩

/-- A word is illegal exactly when its bits 26 and 25, the two of `SH`, are set (R101). -/
theorem and_shMask_eq_iff_bits (w : MicroWord) :
    w &&& 0x06000000#32 = 0x06000000#32 ↔ w.getLsbD 26 = true ∧ w.getLsbD 25 = true := by
  rw [and_shMask_eq_iff]
  constructor
  · intro h
    exact ⟨by simpa [extract] using congrArg (·.getLsbD 1) h, by simpa [extract] using congrArg (·.getLsbD 0) h⟩
  · rintro ⟨h1, h0⟩
    refine BitVec.eq_of_getLsbD_eq fun i hi => ?_
    interval_cases i <;> simp [extract, h0, h1]

/-- A line of 32 binary digits is refused exactly when both characters of its `SH` field are '1' (R135). -/
theorem decode_eq_range_iff_of_binary {line : Line} (hlen : line.length = 32)
    (hbin : ∀ c ∈ line, c = '0' ∨ c = '1') :
    decode line = .error .range ↔ (line)[5]? = some '1' ∧ (line)[6]? = some '1' := by
  have hline := decodeLine_of_binary hlen hbin
  have h5 := getLsbD_of_decodeLine hline (k := 5) (by decide)
  have h6 := getLsbD_of_decodeLine hline (k := 6) (by decide)
  rw [decode, hline]
  simp only [decodeWord_eq_range_iff, and_shMask_eq_iff_bits, h5, h6, beq_iff_eq]

/-- The one error of the word decoder is the range error (R135). -/
theorem decodeWord_error {w : MicroWord} {e : DecodeError} (h : decodeWord w = .error e) : e = .range := by
  unfold decodeWord at h
  split_ifs at h
  exact (Except.error.inj h).symm

/-- A well-formed line has no other error than the range error (R138, D13). -/
theorem decode_error_of_binary {line : Line} (hlen : line.length = 32) (hbin : ∀ c ∈ line, c = '0' ∨ c = '1')
    {e : DecodeError} (h : decode line = .error e) : e = .range := by
  rw [decode, decodeLine_of_binary hlen hbin] at h
  exact decodeWord_error h

theorem exists_nonBinary_iff (line : Line) :
    (∃ c ∈ line, c ≠ '0' ∧ c ≠ '1') ↔ ¬ ∀ c ∈ line, c = '0' ∨ c = '1' := by
  simp only [not_forall, not_or, exists_prop, ne_eq]

/-- Settles O2: a line has the wrong length, or the right length and another character, or is binary, and in each case
the verdict is known. -/
theorem verdictOnEveryLine : Obligations.VerdictOnEveryLine := by
  intro line
  by_cases hlen : line.length = 32
  · by_cases hbin : ∀ c ∈ line, c = '0' ∨ c = '1'
    · have herror {e : DecodeError} : decode line = .error e → e = .range := decode_error_of_binary hlen hbin
      have hgood : ¬ ∃ c ∈ line, c ≠ '0' ∧ c ≠ '1' := fun hbad => (exists_nonBinary_iff line).1 hbad hbin
      refine ⟨iff_of_false (fun h => nomatch herror h) (not_not.2 hlen),
        iff_of_false (fun h => nomatch herror h) fun ⟨_, hbad⟩ => hgood hbad, ?_⟩
      rw [decode_eq_range_iff_of_binary hlen hbin]
      exact ⟨fun h => ⟨hlen, hbin, h⟩, fun ⟨_, _, h⟩ => h⟩
    · have hbad := (exists_nonBinary_iff line).2 hbin
      rw [decode_of_decodeLine_error (decodeLine_of_nonBinary hlen hbad)]
      exact ⟨iff_of_false (by simp) (not_not.2 hlen), iff_of_true rfl ⟨hlen, hbad⟩,
        iff_of_false (by simp) fun ⟨_, hbin', _⟩ => hbin hbin'⟩
  · rw [decode_of_decodeLine_error (decodeLine_of_length_ne hlen)]
    exact ⟨iff_of_true rfl hlen, iff_of_false (by simp) fun ⟨h, _⟩ => hlen h,
      iff_of_false (by simp) fun ⟨h, _⟩ => hlen h⟩

namespace Machine

theorem programWord_of_binary {line : Line} (hlen : line.length = 16) (hbin : ∀ c ∈ line, c = '0' ∨ c = '1') :
    programWord line = some (BitVec.ofNat 16 (lineValue line)) :=
  if_pos ⟨hlen, List.all_eq_true.2 fun c hc => (isBinary_iff c).2 (hbin c hc)⟩

/-- A program line with a word has 16 binary characters, and the word is the numeral they spell (R78). -/
theorem programWord_eq_some {line : Line} {w : Word} (h : programWord line = some w) :
    line.length = 16 ∧ (∀ c ∈ line, c = '0' ∨ c = '1') ∧ w = BitVec.ofNat 16 (lineValue line) := by
  unfold programWord at h
  split_ifs at h with hline
  obtain ⟨hlen, hall⟩ := hline
  exact ⟨hlen, fun c hc => (isBinary_iff c).1 (List.all_eq_true.1 hall c hc), (Option.some.inj h).symm⟩

/-- Exactly the lines of 16 binary characters have a word (R78). -/
theorem exists_programWord_iff (line : Line) :
    (∃ w, programWord line = some w) ↔ line.length = 16 ∧ ∀ c ∈ line, c = '0' ∨ c = '1' := by
  refine ⟨fun ⟨w, h⟩ => ?_, fun ⟨hlen, hbin⟩ => ⟨_, programWord_of_binary hlen hbin⟩⟩
  obtain ⟨hlen, hbin, -⟩ := programWord_eq_some h
  exact ⟨hlen, hbin⟩

/-- Settles O54: a program line is the numeral its characters spell, the first on top. -/
theorem programLineSpellsItsWord : Obligations.ProgramLineSpellsItsWord := by
  refine ⟨exists_programWord_iff, fun line w h k hk => ?_⟩
  obtain ⟨hlen, -, rfl⟩ := programWord_eq_some h
  exact getLsbD_lineValue hlen hk

/-- Lines that all have a word load as their words (R79). -/
theorem exists_programWords_ok {lines : List Line} (h : ∀ line ∈ lines, ∃ w, programWord line = some w) (i : Nat) :
    ∃ ws, programWords i lines = .ok ws := by
  induction lines generalizing i with
  | nil => exact ⟨[], rfl⟩
  | cons line lines ih =>
    obtain ⟨⟨w, hw⟩, htail⟩ := List.forall_mem_cons.1 h
    obtain ⟨ws, hws⟩ := ih htail (i + 1)
    exact ⟨w :: ws, by simp only [programWords, hw, hws]⟩

theorem exists_loadProgram_ok {cfg : Config} {lines : List Line} (hlen : lines.length ≤ cfg.memSize)
    (h : ∀ line ∈ lines, ∃ w, programWord line = some w) : ∃ m, loadProgram cfg lines = .ok m := by
  obtain ⟨ws, hws⟩ := exists_programWords_ok h 0
  exact ⟨memoryFrom 0 ws, by rw [loadProgram, if_neg (Nat.not_lt.2 hlen), hws]⟩

/-- Every line of a program that loads has a word (R79). -/
theorem exists_programWord_of_loadProgram {cfg : Config} {lines : List Line} {m : Memory}
    (h : loadProgram cfg lines = .ok m) : ∀ line ∈ lines, ∃ w, programWord line = some w := by
  obtain ⟨-, ws, hmap, -⟩ := loadProgram_ok h
  intro line hline
  have hword : programWord line ∈ ws.map some := hmap ▸ List.mem_map_of_mem hline
  obtain ⟨w, -, hw⟩ := List.mem_map.1 hword
  exact ⟨w, hw.symm⟩

/-- Settles O55: the load refuses a program for its length or for a line without a word, and no machine boots without
it. -/
theorem badProgramIsRefused : Obligations.BadProgramIsRefused := by
  constructor
  · intro cfg lines
    simp only [← exists_programWord_iff]
    constructor
    · rintro ⟨m, h⟩
      obtain ⟨hlen, -⟩ := loadProgram_ok h
      exact ⟨hlen, exists_programWord_of_loadProgram h⟩
    · rintro ⟨hlen, hlines⟩
      exact exists_loadProgram_ok hlen hlines
  · rintro cfg v csLines programLines hrefused ⟨s, h⟩
    obtain ⟨-, mem, -, hmem, -⟩ := boot_ok h
    exact hrefused ⟨mem, hmem⟩

end Machine

end Sys2Proof

/-! ## Loads and the boot (R46, R153 to R155, R290) -/

namespace Sys2Proof

/-- The first item that fails gives the load's error, with its index and its own reason (R153, R155). -/
theorem decodeEach_of_first_error {α : Type} {dec : α → Except DecodeError Instr} {xs : List α} {k : Nat} {x : α}
    {e : DecodeError} (hx : xs[k]? = some x) (he : dec x = .error e)
    (hbefore : ∀ j, j < k → ∀ y, xs[j]? = some y → ∃ i, dec y = .ok i) (n : Nat) :
    decodeEach dec n xs = .error (.line (n + k) e) := by
  induction xs generalizing k n with
  | nil => cases hx
  | cons y ys ih =>
    cases k with
    | zero =>
      cases hx
      simp only [decodeEach, he, Nat.add_zero]
    | succ k =>
      obtain ⟨i, hi⟩ := hbefore 0 k.succ_pos y rfl
      have hrest := ih (k := k) hx (fun j hj => hbefore (j + 1) (Nat.succ_lt_succ hj)) (n + 1)
      simp only [decodeEach, hi, hrest, Nat.add_assoc, Nat.add_comm 1]

/-- Settles O11: within the capacity the lines are decoded in order up to the first that fails. -/
theorem firstFailingLineIsReported : Obligations.FirstFailingLineIsReported := by
  intro lines k line e hfits hline he hbefore
  rw [loadControlStore_of_fits hfits, decodeEach_of_first_error hline he hbefore 0, Nat.zero_add]

/-- A list that loads is its items decoded, one for one and in order (R152, R154). -/
theorem map_eq_of_decodeEach {α : Type} {dec : α → Except DecodeError Instr} {n : Nat} {xs : List α} {cs : List Instr}
    (h : decodeEach dec n xs = .ok cs) : cs.map .ok = xs.map dec := by
  obtain ⟨cs', hmap⟩ := exists_map_ok_eq (decodeEach_ok_of_mem h)
  obtain rfl : cs = cs' := Except.ok.inj (h.symm.trans (decodeEach_of_map_eq hmap n))
  exact hmap

/-- What `Decode` answers is well-formed (R101). -/
theorem wellFormed_of_decode {line : Line} {i : Instr} (h : decode line = .ok i) : i.wellFormed = true := by
  obtain ⟨w, -, hw⟩ := decode_ok h
  exact wellFormed_of_decodeWord hw

/-- A control store that loads is its lines decoded, one for one and in order (R154). -/
theorem map_eq_of_loadControlStore {lines : List Line} {cs : List Instr} (h : loadControlStore lines = .ok cs) :
    cs.map .ok = lines.map decode := by
  obtain ⟨-, heach⟩ := loadControlStore_ok h
  exact map_eq_of_decodeEach heach

/-- The entry of a line of a control store that loads is what the line decodes to (R154). -/
theorem getElem?_of_loadControlStore {lines : List Line} {cs : List Instr} (h : loadControlStore lines = .ok cs)
    {k : Nat} {line : Line} {i : Instr} (hline : lines[k]? = some line) (hi : decode line = .ok i) :
    cs[k]? = some i := by
  obtain ⟨i', hentry, hi'⟩ := getElem?_of_map_eq (map_eq_of_loadControlStore h) hline
  obtain rfl : i = i' := Except.ok.inj (hi.symm.trans hi')
  exact hentry

/-- A control store that loads is legal (R62, R153). -/
theorem csWellFormed_of_loadControlStore {lines : List Line} {cs : List Instr} (h : loadControlStore lines = .ok cs) :
    csWellFormed cs = true := by
  have hmap := map_eq_of_loadControlStore h
  have hlen : cs.length = lines.length := by simpa using congrArg List.length hmap
  obtain ⟨hfits, -⟩ := loadControlStore_ok h
  have hlegal : ∀ i ∈ cs, i.wellFormed = true := by
    intro i hi
    have hdec : Except.ok i ∈ lines.map decode := hmap ▸ List.mem_map_of_mem hi
    obtain ⟨line, -, hline⟩ := List.mem_map.1 hdec
    exact wellFormed_of_decode hline
  rw [csWellFormed, Bool.and_eq_true, decide_eq_true_iff, List.all_eq_true]
  exact ⟨hlen ▸ hfits, hlegal⟩

theorem Config.wf_iff (cfg : Config) : cfg.wf = true ↔ 1 ≤ cfg.memSize ∧ cfg.memSize ≤ 32768 := by
  rw [Config.wf, Bool.and_eq_true, decide_eq_true_iff, decide_eq_true_iff]

namespace Machine

/-- Settles O13: the launch state's fields, and the fetch of cycle 1 at index 0 of the store the load gave. -/
theorem freshInstanceStartsAtZero : Obligations.FreshInstanceStartsAtZero := by
  intro cfg v csLines programLines s h
  obtain ⟨cs, mem, hcs, hmem, rfl⟩ := boot_ok h
  refine ⟨rfl, hcs, hmem, rfl, rfl, rfl, rfl, rfl, rfl, rfl, rfl, rfl, rfl, rfl, rfl, rfl, rfl, rfl, rfl, rfl, rfl,
    rfl, fun line i hline hi => ?_⟩
  exact step_of_fetch rfl (getElem?_of_loadControlStore hcs hline hi)

/-- Settles O14: sixteen bits hold both readings of the top of a memory of legal size. -/
theorem stackPointerStartsAtTopOfMemory : Obligations.StackPointerStartsAtTopOfMemory := by
  intro cfg hwf
  obtain ⟨hlo, hhi⟩ := (Config.wf_iff cfg).1 hwf
  constructor
  · intro htop
    have hsp : cfg.spReset.toNat = cfg.memSize - 1 := by
      rw [Config.spReset, htop]
      exact Nat.mod_eq_of_lt (by omega)
    exact ⟨hsp, by omega⟩
  · intro htop
    rw [Config.spReset, htop]
    exact Nat.mod_eq_of_lt (by omega)

/-- Settles O34: the store's entry is what the line decodes to, and an index within the capacity leaves `mpc` room to
increment. -/
theorem stepRunsTheDecodedInstruction : Obligations.StepRunsTheDecodedInstruction := by
  intro lines line i s hload hrun hline hi
  obtain ⟨hfits, -⟩ := loadControlStore_ok hload
  have hindex : s.mpc.toNat < 256 := (List.getElem?_eq_some_iff.1 hline).1.trans_le hfits
  refine ⟨wellFormed_of_decode hi, step_of_fetch hrun (getElem?_of_loadControlStore hload hline hi), ?_⟩
  bv_omega

end Machine

end Sys2Proof

/-! ## `INV` and the shifter as numbers; completion of the forms that use them (R192, R201 to R203) -/

namespace Sys2Proof.Machine

open Sys2Proof.Claims

/-- `INV` as a number: the complement with bit 15 dropped (R192). -/
theorem toNat_aluResult_inv (a b : Word) : (aluResult .inv a b).toNat = (65535 - a.toNat) % 32768 := by
  have hmask : (0x7FFF#16).toNat = 2 ^ 15 - 1 := rfl
  rw [aluResult_eq_aluWord, aluWord, BitVec.toNat_and, BitVec.toNat_not, hmask, Nat.and_two_pow_sub_one_eq_mod]

/-- Bit 15 of a word, by its number. -/
theorem getLsbD_fifteen_iff (w : Word) : w.getLsbD 15 = true ↔ 32768 ≤ w.toNat := by
  have hmsb : w.msb = w.getLsbD 15 := BitVec.msb_eq_getLsbD_last w
  rw [← hmsb, BitVec.msb_eq_decide, decide_eq_true_iff]

/-- The result of `INV` has bit 15 clear (R192, D3). -/
theorem aluResult_inv_getLsbD_fifteen (a b : Word) : (aluResult .inv a b).getLsbD 15 = false := by
  rw [← Bool.not_eq_true, getLsbD_fifteen_iff, toNat_aluResult_inv]
  omega

/-- `INV` is never negative (R192, D3). -/
theorem aluNegative_inv (a b : Word) : aluNegative .inv a b = false := by
  rw [aluNegative_of_ne_add (by decide), aluResult_inv_getLsbD_fifteen]

theorem aluResult_inv_getLsbD_of_lt (a b : Word) {k : Nat} (hk : k < 15) :
    (aluResult .inv a b).getLsbD k = !a.getLsbD k := by
  have hk' : k < 16 := by omega
  have hmask : ∀ k < 15, (0x7FFF#16).getLsbD k = true := by decide
  rw [aluResult_eq_aluWord, aluWord, BitVec.getLsbD_and, BitVec.getLsbD_not, hmask k hk]
  simp [hk']

theorem aluResult_inv_eq_zero_iff (a b : Word) : aluResult .inv a b = 0#16 ↔ a = 0x7FFF#16 ∨ a = 0xFFFF#16 := by
  rw [← BitVec.toNat_inj, toNat_aluResult_inv]
  bv_omega

theorem aluResult_inv_eq_not_iff (a b : Word) : aluResult .inv a b = ~~~a ↔ a.getLsbD 15 = true := by
  rw [← BitVec.toNat_inj, toNat_aluResult_inv, getLsbD_fifteen_iff]
  bv_omega

theorem aluResult_inv_inv (a b : Word) (h : a.getLsbD 15 = false) :
    aluResult .inv (aluResult .inv a b) b = a := by
  rw [← Bool.not_eq_true, getLsbD_fifteen_iff] at h
  rw [← BitVec.toNat_inj, toNat_aluResult_inv, toNat_aluResult_inv]
  omega

/-- Settles O31: as a number the result is the complement modulo 32768, and each clause is arithmetic on it. -/
theorem invertForcesBitFifteenClear : Obligations.InvertForcesBitFifteenClear := by
  intro a b
  refine ⟨aluNegative_inv a b, ?_, ?_, aluResult_inv_eq_not_iff a b, aluResult_inv_inv a b⟩
  · have hlt : (aluResult .inv a b).toNat < 32768 := by
      rw [toNat_aluResult_inv]
      exact Nat.mod_lt _ (by decide)
    exact Nat.le_of_lt_succ hlt
  · exact decide_eq_true_iff.trans (aluResult_inv_eq_zero_iff a b)

/-- Settles O18: the result is the complement with bit 15 clear; the rest is the datapath's completion. -/
theorem invCompletes : Obligations.InvCompletes := by
  intro f s
  exact ⟨aluResult .inv (opA f s) (opB f s), fun k hk => aluResult_inv_getLsbD_of_lt _ _ hk,
    aluResult_inv_getLsbD_fifteen _ _,
    datapath_completes (op := .inv) (sh := .none) rfl (aluNegative_inv _ _) rfl⟩

theorem toNat_shift_rsh (v : Word) : (shift .rsh v).toNat = v.toNat / 2 := by
  rw [shift, BitVec.toNat_ushiftRight, Nat.shiftRight_eq_div_pow, pow_one]

theorem toNat_shift_lsh (v : Word) : (shift .lsh v).toNat = v.toNat * 2 % 65536 := by
  rw [shift, BitVec.toNat_shiftLeft, Nat.shiftLeft_eq, pow_one]

/-- Settles O32: a shift right divides by 2, and a shift left multiplies by 2 and wraps. -/
theorem shifterHalvesAndDoubles : Obligations.ShifterHalvesAndDoubles := fun v =>
  ⟨rfl, toNat_shift_rsh v, toNat_shift_lsh v⟩

theorem shift_rsh_eq_halved (v : Word) : shift .rsh v = halved v := by
  have hlt := v.isLt
  refine BitVec.eq_of_toNat_eq ?_
  rw [toNat_shift_rsh, halved, BitVec.toNat_ofNat, Nat.mod_eq_of_lt (by omega)]

theorem shift_lsh_eq_doubled (v : Word) : shift .lsh v = doubled v := by
  refine BitVec.eq_of_toNat_eq ?_
  rw [toNat_shift_lsh, doubled, BitVec.toNat_ofNat]

/-- The three cycles of one ALU operation and shifter mode, with the flags of the unshifted result (R204). -/
theorem datapath_completes_of_shift (op : AluOp) {sh : ShiftMode} {shifted : Word → Word}
    (hsh : ∀ v, shift sh v = shifted v) (f : Fields) (s : State) :
    endsPlain (.datapath op sh .none f) f s (decide (aluWord op (opA f s) (opB f s) = 0#16))
        (aluSign op (opA f s) (opB f s)) (shifted (aluWord op (opA f s) (opB f s))) ∧
      endsRead (.datapath op sh .rd f) f s (decide (aluWord op (opA f s) (opB f s) = 0#16))
        (aluSign op (opA f s) (opB f s)) (shifted (aluWord op (opA f s) (opB f s))) ∧
      endsWrite (.datapath op sh .wr f) f s (decide (aluWord op (opA f s) (opB f s) = 0#16))
        (aluSign op (opA f s) (opB f s)) (shifted (aluWord op (opA f s) (opB f s))) :=
  datapath_completes (by rw [aluZero, aluResult_eq_aluWord]) (aluNegative_eq_aluSign op _ _)
    (by rw [aluResult_eq_aluWord, hsh])

/-- Settles O19: the right-shifting mode is halving, for each operation. -/
theorem rightShiftFormsComplete : Obligations.RightShiftFormsComplete := by
  intro f s
  have hforms (op : AluOp) := datapath_completes_of_shift op shift_rsh_eq_halved f s
  obtain ⟨hadd, haddRd, haddWr⟩ := hforms .add
  obtain ⟨hand, handRd, handWr⟩ := hforms .and
  obtain ⟨hpass, hpassRd, hpassWr⟩ := hforms .pass
  exact ⟨hadd, haddRd, haddWr, hand, handRd, handWr, hpass, hpassRd, hpassWr, hforms .inv⟩

/-- Settles O20: the left-shifting mode is doubling, for each operation. -/
theorem leftShiftFormsComplete : Obligations.LeftShiftFormsComplete := by
  intro f s
  have hforms (op : AluOp) := datapath_completes_of_shift op shift_lsh_eq_doubled f s
  obtain ⟨hadd, haddRd, haddWr⟩ := hforms .add
  obtain ⟨hand, handRd, handWr⟩ := hforms .and
  obtain ⟨hpass, hpassRd, hpassWr⟩ := hforms .pass
  exact ⟨hadd, haddRd, haddWr, hand, handRd, handWr, hpass, hpassRd, hpassWr, hforms .inv⟩

/-- The fields of the all-zero word (R106). -/
def allZeroFields : Fields := ⟨false, .never, false, false, false, .pc, .pc, .pc, 0⟩

theorem decodeWord_zero : decodeWord 0#32 = .ok (.add allZeroFields) := by decide

/-- A word plus itself is negative exactly when the word is (R187). -/
theorem aluNegative_add_self (a : Word) : aluNegative .add a a = decide (a.toInt < 0) := by
  rw [aluNegative, aluRaw, decide_eq_decide]
  omega

/-- Settles O38: `ADD` of `PC` to itself, with nothing enabled, completes with the flags as the only change to the state
steps 1 and 2 leave. -/
theorem allZeroWordOnlyMovesOn : Obligations.AllZeroWordOnlyMovesOn := by
  refine ⟨_, decodeWord_zero, fun s hrun hc => ?_⟩
  obtain ⟨hplain, -, -⟩ := datapath_completes (op := .add) (sh := .none) (f := allZeroFields) (s := s.afterFetch)
    (congrArg (fun r => decide (r = 0#16)) (aluResult_eq_aluWord .add _ _)) (aluNegative_add_self s.regs.pc) rfl
  exact (step_of_fetch hrun hc).trans hplain

end Sys2Proof.Machine

/-! ## Frames: what a cycle leaves unchanged (R21, R63, R180, R240, R242) -/

namespace Sys2Proof.Machine

@[simp] theorem State.afterFetch_mem (s : State) : s.afterFetch.mem = s.mem := rfl

@[simp] theorem clearFlags_mem (s : State) : (clearFlags s).mem = s.mem := rfl

@[simp] theorem raiseFault_regs (r : FaultRecord) (s : State) : (raiseFault r s).regs = s.regs := rfl

@[simp] theorem raiseFault_mbr (r : FaultRecord) (s : State) : (raiseFault r s).mbr = s.mbr := rfl

@[simp] theorem raiseFault_mem (r : FaultRecord) (s : State) : (raiseFault r s).mem = s.mem := rfl

@[simp] theorem enterHalted_mem (s : State) : (enterHalted s).mem = s.mem := rfl

@[simp] theorem memAccess_regs (q : MemReq) (s : State) : (memAccess q s).regs = s.regs := by
  rcases memAccess_cases q s with ⟨-, h⟩ | ⟨-, -, h⟩ | ⟨-, -, h⟩ | ⟨-, -, h⟩ | ⟨-, -, h⟩ <;> simp [h]

/-- Only a read writes `mbr` in step 12 (R244, R246). -/
theorem memAccess_mbr_of_ne_rd {q : MemReq} (hq : q ≠ .rd) (s : State) : (memAccess q s).mbr = s.mbr := by
  rcases memAccess_cases q s with ⟨-, h⟩ | ⟨hrd, -⟩ | ⟨hrd, -⟩ | ⟨-, -, h⟩ | ⟨-, -, h⟩
  · rw [h]
  · exact absurd hrd hq
  · exact absurd hrd hq
  · rw [h, State.setMem_mbr]
  · rw [h, raiseFault_mbr]

/-- All that step 12 can do to memory: one write by a `WR` in bounds (R246). -/
theorem memAccess_mem (q : MemReq) (s : State) :
    (memAccess q s).mem = s.mem ∨
    q = .wr ∧ s.mar.toNat < s.cfg.memSize ∧ (memAccess q s).mem = s.mem.write s.mar.toNat s.mbr := by
  rcases memAccess_cases q s with ⟨-, h⟩ | ⟨-, -, h⟩ | ⟨-, -, h⟩ | ⟨hwr, hin, h⟩ | ⟨-, -, h⟩
  · exact .inl (by rw [h])
  · exact .inl (by rw [h, State.setMbr_mem])
  · exact .inl (by rw [h, raiseFault_mem])
  · exact .inr ⟨hwr, hin, by rw [h, State.setMem_mem]⟩
  · exact .inl (by rw [h, raiseFault_mem])

section datapath
variable (op : AluOp) (sh : ShiftMode) (q : MemReq) (f : Fields) (s : State)

theorem datapath_regs : (datapath op sh q f s).regs =
    if f.enc then s.regs.write f.c (shiftedOf op sh f s) else s.regs := by
  rw [datapath, memAccess_regs, datapathSteps_regs]

/-- All that a datapath microinstruction can do to memory: one write at the address it accesses, by a `WR` in bounds
(R241, R246). -/
theorem datapath_mem :
    (datapath op sh q f s).mem = s.mem ∨
    q = .wr ∧ (s.accessAddr f).toNat < s.cfg.memSize ∧
      ∃ v, (datapath op sh q f s).mem = s.mem.write (s.accessAddr f).toNat v := by
  obtain ⟨hcfg, -, -, hmem, -, -⟩ := datapathSteps_rest op sh f s
  have hmar := datapathSteps_mar_eq_accessAddr op sh f s
  rcases memAccess_mem q (datapathSteps op sh f s) with h | ⟨hwr, hin, h⟩
  · exact .inl (h.trans hmem)
  · rw [hmar, hcfg] at hin
    rw [hmar, hmem] at h
    exact .inr ⟨hwr, hin, _, h⟩

/-- A datapath microinstruction leaves every register but the one `ENC` and `C` select (R180, R181). -/
theorem busRead_datapath_of_not_selected {c : BusCode} (hc : ¬ (f.enc = true ∧ c = f.c)) :
    busRead (datapath op sh q f s) c = busRead s c := by
  have hcfg := datapath_cfg op sh q f s
  have hregs := datapath_regs op sh q f s
  split_ifs at hregs with henc
  · rw [busRead_congr (s := s.setRegs (s.regs.write f.c (shiftedOf op sh f s))) hcfg hregs, busRead_setRegs_write,
      if_neg fun h => hc ⟨henc, h.1⟩]
  · exact busRead_congr hcfg hregs c

theorem datapath_mar_of_not_mar (h : f.mar = false) : (datapath op sh q f s).mar = s.mar := by
  rw [datapath_mar, marAfter, h, if_neg Bool.false_ne_true]

theorem datapath_mbr_of_not_mbr (hq : q ≠ .rd) (h : f.mbr = false) : (datapath op sh q f s).mbr = s.mbr := by
  rw [datapath, memAccess_mbr_of_ne_rd hq, datapathSteps_mbr, h, if_neg Bool.false_ne_true]

/-- A cell that a datapath microinstruction changes is the one it accesses, in bounds, by a `WR` (R63, R73). -/
theorem of_datapath_read_ne {a : Nat} (h : (datapath op sh q f s).mem.read a ≠ s.mem.read a) :
    q = .wr ∧ a = (s.accessAddr f).toNat ∧ (s.accessAddr f).toNat < s.cfg.memSize := by
  rcases datapath_mem op sh q f s with hmem | ⟨hwr, hin, v, hmem⟩
  · exact absurd (by rw [hmem]) h
  · refine ⟨hwr, ?_, hin⟩
    by_contra ha
    exact h (by rw [hmem, Memory.read_write_of_ne _ _ ha])

end datapath

/-- Settles O22: HALT sets the sequencer's state only; a datapath form without `WR` writes no cell, the register that
`ENC` and `C` select and the enabled latches, and without a request it ends as step 11 leaves it. -/
theorem frameOfNonStoringForms : Obligations.FrameOfNonStoringForms := by
  constructor
  · intro m alu f s t h
    rw [exec_halting] at h
    cases h
    exact ⟨rfl, fun a => rfl⟩
  · intro op sh q f s t hq h
    rw [exec_datapath] at h
    cases h
    refine ⟨fun a => ?_, fun c => busRead_datapath_of_not_selected op sh q f s, datapath_mar_of_not_mar op sh q f s,
      fun hmbr hnone => datapath_mbr_of_not_mbr op sh q f s (by simp [hnone]) hmbr, datapath_cfg op sh q f s,
      datapath_cs op sh q f s, ?_⟩
    · by_contra hne
      obtain ⟨hwr, -, -⟩ := of_datapath_read_ne op sh q f s hne
      exact hq hwr
    · rintro rfl
      obtain ⟨-, hrun, hfault, -, -, hdumps⟩ := datapathSteps_rest op sh f s
      exact ⟨hrun, hfault, hdumps⟩

/-- Settles O23: a form with `WR` writes the cell it accesses, the register that `ENC` and `C` select and the enabled
latches, and in bounds it ends as step 11 leaves it but for memory. -/
theorem frameOfStoringForms : Obligations.FrameOfStoringForms := by
  intro op sh f s t h
  rw [exec_datapath] at h
  cases h
  refine ⟨fun a ha => ?_, fun c => busRead_datapath_of_not_selected op sh .wr f s,
    datapath_mar_of_not_mar op sh .wr f s, datapath_mbr_of_not_mbr op sh .wr f s (by decide),
    datapath_cfg op sh .wr f s, datapath_cs op sh .wr f s, fun hin => ?_⟩
  · by_contra hne
    obtain ⟨-, haddr, -⟩ := of_datapath_read_ne op sh .wr f s hne
    exact ha haddr
  · obtain ⟨-, hrun, hfault, -, -, hdumps⟩ := datapathSteps_rest op sh f s
    rw [datapath_wr_inBounds op sh hin]
    exact ⟨hrun, hfault, hdumps⟩

/-- Steps 1 and 2 change no register (R211, R213). -/
theorem busRead_afterFetch (s : State) (c : BusCode) : busRead s.afterFetch c = busRead s c :=
  busRead_congr rfl rfl c

/-- The address accessed is that of the state the cycle starts in (R241). -/
theorem accessAddr_afterFetch (f : Fields) (s : State) : s.afterFetch.accessAddr f = s.accessAddr f := by
  rw [State.accessAddr, busRead_afterFetch]
  rfl

/-- Settles O28: of the ways a cycle can end only the datapath reaches step 9, which writes the register `C` selects if
`ENC` is set. -/
theorem registersChangeOnlyThroughC : Obligations.RegistersChangeOnlyThroughC := by
  intro s t c h hne
  obtain ⟨-, ⟨-, rfl⟩ | ⟨m, alu, f, -, rfl⟩ | ⟨op, sh, q, f, hc, rfl⟩⟩ := step_cases h
  · exact absurd (busRead_congr rfl rfl c) hne
  · exact absurd (busRead_congr rfl rfl c) hne
  · by_contra hselect
    refine hne ((busRead_datapath_of_not_selected op sh q f _ fun ⟨henc, hcode⟩ => ?_).trans (busRead_afterFetch s c))
    exact hselect ⟨op, sh, q, f, hc, henc, hcode.symm⟩

/-- All that a cycle can do to memory: one write at the address `mar` ends with, by a microinstruction with `WR` and in
bounds (R63, R73, R76). -/
theorem step_mem {s t : State} (h : step s = .next t) :
    t.mem = s.mem ∨
    (∃ op sh f, s.cs[s.mpc.toNat]? = some (.datapath op sh .wr f)) ∧ t.mar.toNat < s.cfg.memSize ∧
      ∃ v, t.mem = s.mem.write t.mar.toNat v := by
  obtain ⟨-, ⟨-, rfl⟩ | ⟨m, alu, f, -, rfl⟩ | ⟨op, sh, q, f, hc, rfl⟩⟩ := step_cases h
  · exact .inl (by simp)
  · exact .inl (by simp)
  · have hmar : (datapath op sh q f s.afterFetch).mar = s.afterFetch.accessAddr f := datapath_mar op sh q f _
    rw [hmar]
    rcases datapath_mem op sh q f s.afterFetch with hmem | ⟨rfl, hin, hwrite⟩
    · exact .inl hmem
    · exact .inr ⟨⟨op, sh, f, hc⟩, hin, hwrite⟩

/-- Settles O43: a cycle's one write leaves every other cell. -/
theorem oneCellAtMostPerCycle : Obligations.OneCellAtMostPerCycle := by
  intro s t a h hne
  rcases step_mem h with hmem | ⟨hwr, hin, v, hmem⟩
  · exact absurd (by rw [hmem]) hne
  · obtain rfl : a = t.mar.toNat := by
      by_contra ha
      exact hne (by rw [hmem, Memory.read_write_of_ne _ _ ha])
    exact ⟨rfl, hin, hwr⟩

end Sys2Proof.Machine

/-! ## Faults and don't-care fields (R103, R246, R265 to R269) -/

namespace Sys2Proof.Machine

open Sys2Proof.Claims

/-- Steps 4 to 11 depend on the fields only by what the ALU answers and by what step 11's state takes from them. -/
theorem datapathSteps_congr {op : AluOp} (sh : ShiftMode) {f g : Fields} {s : State}
    (halu : alu op (opA g s) (opB g s) = alu op (opA f s) (opB f s))
    (hfields : ∀ z n v, atStep11 g s z n v = atStep11 f s z n v) :
    datapathSteps op sh g s = datapathSteps op sh f s := by
  obtain ⟨hresult, hzero, hnegative⟩ := AluOut.mk.inj halu
  have hshifted : shiftedOf op sh g s = shiftedOf op sh f s := congrArg (shift sh) hresult
  rw [datapathSteps_eq_atStep11, datapathSteps_eq_atStep11, hzero, hnegative, hshifted, hfields]

theorem exec_datapath_congr {op : AluOp} (sh : ShiftMode) (q : MemReq) {f g : Fields} {s : State}
    (halu : alu op (opA g s) (opB g s) = alu op (opA f s) (opB f s))
    (hfields : ∀ z n v, atStep11 g s z n v = atStep11 f s z n v) :
    exec (.datapath op sh q g) s = exec (.datapath op sh q f) s := by
  rw [exec_datapath, exec_datapath, datapath, datapath, datapathSteps_congr sh halu hfields]

/-- Settles O37: `A` and `B` act through the operands, `B` and `C` and `ADDR` through what step 11's state takes from
them; with the field's enable off, or an operation that ignores B, neither changes. -/
theorem dontCareFieldsChangeNothing : Obligations.DontCareFieldsChangeNothing := by
  intro op sh q f s x t
  refine ⟨fun hamux => exec_datapath_congr sh q ?_ fun _ _ _ => rfl,
    fun henc => exec_datapath_congr sh q rfl fun z n v => ?_,
    fun hcond => exec_datapath_congr sh q rfl fun z n v => ?_,
    fun hop hmar => exec_datapath_congr sh q ?_ fun z n v => ?_⟩
  · have hA : opA { f with a := x } s = opA f s := by simp [opA, hamux]
    rw [hA]
    rfl
  · simp [atStep11, henc, taken, State.accessAddr]
  · simp [atStep11, hcond, taken, State.accessAddr]
  · rcases hop with rfl | rfl <;> rfl
  · simp [atStep11, hmar, taken, State.accessAddr]

/-- Step 12 of a write out of bounds (R246, D8). -/
theorem memAccess_wr_outOfBounds {s : State} (h : s.cfg.memSize ≤ s.mar.toNat) :
    memAccess .wr s = raiseFault (.writeFault s.mar) s := by
  simp [memAccess, memPort, inBounds, Nat.not_lt.2 h]

/-- A write form out of bounds ends in the WriteFault of the address, taken on step 11's state (R246, D8). -/
theorem datapath_wr_outOfBounds (op : AluOp) (sh : ShiftMode) {f : Fields} {s : State}
    (h : s.cfg.memSize ≤ (s.accessAddr f).toNat) :
    datapath op sh .wr f s = raiseFault (.writeFault (s.accessAddr f)) (datapathSteps op sh f s) := by
  obtain ⟨hcfg, -⟩ := datapathSteps_rest op sh f s
  have hmar := datapathSteps_mar_eq_accessAddr op sh f s
  rw [datapath, memAccess_wr_outOfBounds (by rw [hmar, hcfg]; exact h), hmar]

/-- Settles O41: step 12 writes one cell of the canonical memory step 11 leaves, or is the Faulted transition on that
state. -/
theorem writeRequestStoresOrFaults : Obligations.WriteRequestStoresOrFaults := by
  intro op sh f s
  have hmar := datapathSteps_mar_eq_accessAddr op sh f s
  refine ⟨datapathSteps op sh f s, by rw [exec_datapath, datapath_none], hmar, fun hin hwf => ?_, fun hout => ?_⟩
  · have hin' : (s.accessAddr f).toNat < s.cfg.memSize := by rwa [hmar] at hin
    refine ⟨s.mem.write (s.accessAddr f).toNat (datapathSteps op sh f s).mbr,
      by rw [exec_datapath, datapath_wr_inBounds op sh hin', State.setMem], ?_, ?_⟩
    · rw [hmar, Memory.read_write_self hwf]
    · rw [hmar]
      exact fun a => Memory.read_write_of_ne _ _
  · rw [hmar] at hout
    rw [exec_datapath, datapath_wr_outOfBounds op sh hout, raiseFault_eq_faultedWith, hmar]

/-- A datapath microinstruction ends in Faulted exactly when it requests an access out of bounds (R265). -/
theorem datapath_faulted_iff (op : AluOp) (sh : ShiftMode) (q : MemReq) (f : Fields) {s : State}
    (hrun : s.runState = .running) :
    (datapath op sh q f s).runState = .faulted ↔ q ≠ .none ∧ s.cfg.memSize ≤ (s.accessAddr f).toNat := by
  obtain ⟨-, hsteps, -⟩ := datapathSteps_rest op sh f s
  rw [hrun] at hsteps
  rcases Nat.lt_or_ge (s.accessAddr f).toNat s.cfg.memSize with hin | hout
  · have hend : (datapath op sh q f s).runState = .running := by
      cases q with
      | none => rw [datapath_none, hsteps]
      | rd => rw [datapath_rd_inBounds op sh hin, State.setMbr_runState, hsteps]
      | wr => rw [datapath_wr_inBounds op sh hin, State.setMem_runState, hsteps]
    exact iff_of_false (by simp [hend]) fun ⟨_, hout⟩ => Nat.not_lt.2 hout hin
  · cases q with
    | none => exact iff_of_false (by simp [datapath_none, hsteps]) fun ⟨hq, _⟩ => hq rfl
    | rd => exact iff_of_true (by rw [datapath_rd_outOfBounds op sh hout, raiseFault_runState]) ⟨by decide, hout⟩
    | wr => exact iff_of_true (by rw [datapath_wr_outOfBounds op sh hout, raiseFault_runState]) ⟨by decide, hout⟩

/-- A cycle with a datapath microinstruction at `mpc` ends in Faulted exactly when that requests an access out of bounds
(R265). -/
theorem step_datapath_faulted_iff {s t : State} (h : step s = .next t) {op : AluOp} {sh : ShiftMode} {q : MemReq}
    {f : Fields} (hc : s.cs[s.mpc.toNat]? = some (.datapath op sh q f)) :
    t.runState = .faulted ↔ q ≠ .none ∧ s.cfg.memSize ≤ (s.accessAddr f).toNat := by
  obtain ⟨hrun, -⟩ := step_cases h
  rw [step_runs_datapath h hc, datapath_faulted_iff op sh q f (s := s.afterFetch) hrun, State.afterFetch_cfg,
    accessAddr_afterFetch]

/-- A microinstruction at `mpc` settles what the next cycle may fault for (R265). -/
theorem cannotFault_iff_of_fetch {s : State} {i : Instr} (hc : s.cs[s.mpc.toNat]? = some i) :
    s.CannotFault ↔
      ∀ op sh q f, i = .datapath op sh q f → q ≠ .none → (s.accessAddr f).toNat < s.cfg.memSize := by
  rw [State.CannotFault, hc]
  exact ⟨fun ⟨i', hi, hsafe⟩ => Option.some.inj hi ▸ hsafe, fun hsafe => ⟨i, rfl, hsafe⟩⟩

/-- A cycle does not end in Faulted exactly when it started without a cause of a fault (R265). -/
theorem step_not_faulted_iff {s t : State} (h : step s = .next t) : t.runState ≠ .faulted ↔ s.CannotFault := by
  obtain ⟨-, ⟨hc, rfl⟩ | ⟨m, alu, f, hc, rfl⟩ | ⟨op, sh, q, f, hc, -⟩⟩ := step_cases h
  · refine iff_of_false (not_not.2 (raiseFault_runState _ _)) ?_
    rintro ⟨i, hi, -⟩
    cases hc.symm.trans hi
  · rw [cannotFault_iff_of_fetch hc]
    exact iff_of_true (by simp) fun _ _ _ _ heq => absurd heq halting_ne_datapath
  · rw [cannotFault_iff_of_fetch hc, Ne, step_datapath_faulted_iff h hc, not_and, Nat.not_le]
    constructor
    · intro hsafe op' sh' q' f' heq
      obtain ⟨-, -, rfl, rfl⟩ := datapath_inj heq
      exact hsafe
    · exact fun hsafe => hsafe op sh q f rfl

/-- A cycle that starts with nothing loaded at `mpc` is the InternalFault of that index (R269). -/
theorem step_outside_store {s : State} (hrun : s.runState = .running) (hout : s.cs.length ≤ s.mpc.toNat) :
    step s = .next (raiseFault (.internalFault s.mpc) (clearFlags s)) :=
  step_of_fetch_none hrun (List.getElem?_eq_none hout)

/-- Settles O46: nothing is loaded past the end of the store, and the flags are all that step 1 changes. -/
theorem fetchOutsideStoreFaults : Obligations.FetchOutsideStoreFaults := fun _ hrun hout =>
  step_outside_store hrun hout

/-- Settles O47: a cycle faults by its fetch or by its access, and each of those raises its own cause. -/
theorem faultsExactlyWhenListed : Obligations.FaultsExactlyWhenListed := by
  intro s t h
  obtain ⟨hrun, -⟩ := step_cases h
  refine ⟨step_not_faulted_iff h, fun hout => ?_, fun op sh f hc hfaulted => ?_, fun op sh f hc hfaulted => ?_⟩
  · rw [step_outside_store hrun hout] at h
    cases h
    rfl
  · obtain ⟨-, hout⟩ := (step_datapath_faulted_iff h hc).1 hfaulted
    rw [← accessAddr_afterFetch, ← State.afterFetch_cfg] at hout
    rw [step_runs_datapath h hc, datapath_mar, datapath_rd_outOfBounds op sh hout]
    rfl
  · obtain ⟨-, hout⟩ := (step_datapath_faulted_iff h hc).1 hfaulted
    rw [← accessAddr_afterFetch, ← State.afterFetch_cfg] at hout
    rw [step_runs_datapath h hc, datapath_mar, datapath_wr_outOfBounds op sh hout]
    rfl

/-- Settles O36: steps 1 and 2 leave the same state whatever the flags were, and the cycle goes on from there. -/
theorem flagsCarryNothingOver : Obligations.FlagsCarryNothingOver := by
  intro s z n bt hrun
  cases hc : s.cs[s.mpc.toNat]? with
  | none =>
    rw [step_of_fetch_none hrun hc]
    exact step_of_fetch_none (s := { s with z := z, n := n, bt := bt }) hrun hc
  | some i =>
    rw [step_of_fetch hrun hc]
    exact step_of_fetch (s := { s with z := z, n := n, bt := bt }) hrun hc

/-- Settles O56: the one snapshot is of the state the Faulted transition ends in, and its words are read off that
state's memory. -/
theorem snapshotHoldsTheWholeState : Obligations.SnapshotHoldsTheWholeState := by
  intro s t h
  rcases step_faults_or_keeps_record h with ⟨r, u, hdumps, rfl⟩ | ⟨hend, hkept, -⟩
  · refine ⟨fun _ => ⟨snapshotOf (raiseFault r u) r, by rw [raiseFault_dumps, hdumps], rfl, rfl, rfl, rfl, rfl, rfl,
      rfl, rfl, rfl, rfl, rfl, rfl, rfl, rfl, rfl, rfl, rfl, rfl, Snapshot.words_length _,
      fun k hk => Snapshot.words_getElem? _ hk⟩, fun hhalted => ?_⟩
    cases hhalted
  · exact ⟨fun hfaulted => absurd hfaulted hend, fun _ => hkept⟩

/-- A run whose first step is known goes on from there. -/
theorem run_succ_of_step {M : Host.Core} {s u : M.State} (h : M.step s = .next u) (k : Nat) :
    M.run (k + 1) s = M.run k u := by
  rw [Host.Core.run, h]

/-- A run that starts out of Faulted and meets no cause of a fault stays out of it: once in Halted it is over. -/
theorem run_not_faulted {k : Nat} {s t : State} (hs : s.runState ≠ .faulted)
    (hsafe : ∀ k t, Host.Core.run Sys2Proof.core k s = .next t → State.runState t = .running → State.CannotFault t)
    (h : Host.Core.run Sys2Proof.core k s = .next t) : t.runState ≠ .faulted := by
  induction k generalizing s with
  | zero =>
    cases h
    exact hs
  | succ k ih =>
    obtain ⟨u, hu, hrun⟩ := run_succ_next h
    obtain ⟨hs', -⟩ := step_cases hu
    refine ih ((step_not_faulted_iff hu).2 (hsafe 0 s rfl hs')) (fun j v hv => ?_) hrun
    exact hsafe (j + 1) v ((run_succ_of_step (M := Sys2Proof.core) hu j).trans hv)

/-- Settles O52: a Running state is not in Faulted, and no step without a cause of a fault ends there. -/
theorem runWithoutCauseNeverFaults : Obligations.RunWithoutCauseNeverFaults := fun s hrun hsafe _ _ h =>
  run_not_faulted (by simp [hrun]) hsafe h

end Sys2Proof.Machine

/-! ## The machine invariant (R6, R24, R33, R61, R62, R68) -/

namespace Sys2Proof.Machine

/-- Out of Faulted the record and the sink are empty (R33, R268). -/
theorem recordWf_iff_of_not_faulted {s : State} (h : s.runState ≠ .faulted) :
    s.recordWf ↔ s.fault = none ∧ s.dumps = [] := by
  unfold State.recordWf
  split
  · exact Iff.rfl
  · exact Iff.rfl
  · exact absurd ‹_› h

/-- Every cycle leaves the fault record and the sink in agreement with the sequencer's state (R33, R44, R268). -/
theorem step_recordWf {s t : State} (hs : s.recordWf) (h : step s = .next t) : t.recordWf := by
  obtain ⟨hrun, -⟩ := step_cases h
  obtain ⟨hfault, hdumps⟩ := (recordWf_iff_of_not_faulted (by simp [hrun])).1 hs
  rcases step_faults_or_keeps_record h with ⟨r, u, hu, rfl⟩ | ⟨hend, hdumps', hfault'⟩
  · exact ⟨r, raiseFault_fault r u, by rw [raiseFault_dumps, hu, hdumps, List.nil_append]⟩
  · exact (recordWf_iff_of_not_faulted hend).2 ⟨hfault'.trans hfault, hdumps'.trans hdumps⟩

/-- A write keeps memory canonical and inside its size, so every cycle does (R61, R68). -/
theorem step_mem_wf {s t : State} (hwf : s.mem.wf = true) (hwithin : s.mem.within s.cfg.memSize = true)
    (h : step s = .next t) : t.mem.wf = true ∧ t.mem.within s.cfg.memSize = true := by
  rcases step_mem h with hmem | ⟨-, hin, v, hmem⟩
  · rw [hmem]
    exact ⟨hwf, hwithin⟩
  · rw [hmem]
    exact ⟨Memory.write_wf hwf _ v, Memory.write_within hwithin hin v⟩

/-- An index with a microinstruction loaded increments without wrapping, to at most the capacity (R24, R62). -/
theorem toNat_mpc_add_one_le {s : State} (hcs : csWellFormed s.cs = true) {i : Instr}
    (hc : s.cs[s.mpc.toNat]? = some i) : (s.mpc + 1).toNat ≤ csCap := by
  obtain ⟨hfits, -⟩ := (Bool.and_eq_true _ _).mp hcs
  have hindex : s.mpc.toNat < 256 := (List.getElem?_eq_some_iff.1 hc).1.trans_le (of_decide_eq_true hfits)
  have hcap : csCap = 256 := rfl
  bv_omega

/-- A branch target is at most 255 (R94). -/
theorem toNat_branchTarget_le (f : Fields) : (branchTarget f).toNat ≤ csCap := by
  have haddr := f.addr.isLt
  rw [branchTarget, BitVec.toNat_setWidth_of_le (by decide)]
  exact haddr.le

/-- Every cycle keeps `mpc` in 0 to 256: it stays on a fault of the fetch, and otherwise it is incremented from an index
in the store or is a branch target (R24, D6). -/
theorem step_mpc_le {s t : State} (hcs : csWellFormed s.cs = true) (hmpc : s.mpc.toNat ≤ csCap)
    (h : step s = .next t) : t.mpc.toNat ≤ csCap := by
  obtain ⟨-, ⟨-, rfl⟩ | ⟨m, alu, f, hc, rfl⟩ | ⟨op, sh, q, f, hc, rfl⟩⟩ := step_cases h
  · exact hmpc
  · exact toNat_mpc_add_one_le hcs hc
  · rw [datapath_mpc, State.afterFetch_mpc]
    split
    · exact toNat_branchTarget_le f
    · exact toNat_mpc_add_one_le hcs hc

/-- Settles O49: no cycle changes the configuration or the control store, and each other part of the invariant has its
lemma about a cycle. -/
theorem stepKeepsInvariant : Obligations.StepKeepsInvariant := by
  intro s t hs h
  have hcfg := step_cfg h
  have hcs := step_cs h
  obtain ⟨hwf, hwithin⟩ := step_mem_wf hs.memWf hs.memWithin h
  exact {
    cfgWf := hcfg ▸ hs.cfgWf
    memWf := hwf
    memWithin := hcfg ▸ hwithin
    csWf := hcs ▸ hs.csWf
    mpcRange := step_mpc_le hs.csWf hs.mpcRange h
    recordOk := step_recordWf hs.recordOk h }

/-- A launch state meets the invariant when its parameters, memory and control store do (R45, R290). -/
theorem launch_inv {cfg : Config} (v : LaunchValues) {cs : List Instr} {mem : Memory} (hcfg : cfg.wf = true)
    (hwf : mem.wf = true) (hwithin : mem.within cfg.memSize = true) (hcs : csWellFormed cs = true) :
    (State.launch cfg v cs mem).Inv where
  cfgWf := hcfg
  memWf := hwf
  memWithin := hwithin
  csWf := hcs
  mpcRange := Nat.zero_le csCap
  recordOk := ⟨rfl, rfl⟩

/-- Settles O50: nothing is loaded at reset. -/
theorem resetMeetsInvariant : Obligations.ResetMeetsInvariant :=
  launch_inv LaunchValues.zero rfl reset_mem_wf rfl rfl

theorem Memory.within_mono {m : Memory} {size size' : Nat} (h : m.within size = true) (hle : size ≤ size') :
    m.within size' = true := by
  simp only [Memory.within, List.all_eq_true, decide_eq_true_eq] at h ⊢
  exact fun cell hcell => (h cell hcell).trans_le hle

/-- A program that loads gives a canonical memory inside its size (R61, R68). -/
theorem loadProgram_wf {cfg : Config} {lines : List Line} {m : Memory} (h : loadProgram cfg lines = .ok m) :
    m.wf = true ∧ m.within cfg.memSize = true := by
  obtain ⟨hfits, ws, hmap, rfl⟩ := loadProgram_ok h
  have hlen : lines.length = ws.length := by simpa using congrArg List.length hmap
  exact ⟨memoryFrom_wfFrom 0 ws, Memory.within_mono (memoryFrom_within 0 ws) (by omega)⟩

/-- Settles O51: the two loads give a legal control store and a canonical memory that fits. -/
theorem bootMeetsInvariant : Obligations.BootMeetsInvariant := by
  intro cfg v csLines programLines s hcfg h
  obtain ⟨cs, mem, hcs, hmem, rfl⟩ := boot_ok h
  obtain ⟨hwf, hwithin⟩ := loadProgram_wf hmem
  exact launch_inv v hcfg hwf hwithin (csWellFormed_of_loadControlStore hcs)

end Sys2Proof.Machine

/-! ## The written form (R109) -/

namespace Sys2Proof.Machine

/-- No token sets `ALU` (R109). -/
theorem apply_alu (r : Record) (m : Modifier) : (Modifier.apply r m).alu = r.alu := by
  cases m <;> rfl

/-- No token sets `SH` to its illegal value (R109). -/
theorem apply_sh_ne_three {r : Record} (hr : r.sh ≠ 3#2) (m : Modifier) : (Modifier.apply r m).sh ≠ 3#2 := by
  cases m with
  | rsh => exact show 1#2 ≠ 3#2 by decide
  | lsh => exact show 2#2 ≠ 3#2 by decide
  | _ => exact hr

/-- Only the token `RD` sets `RD` (R109). -/
theorem apply_rd (r : Record) {m : Modifier} (hm : m ≠ .rd) : (Modifier.apply r m).rd = r.rd := by
  cases m with
  | rd => exact absurd rfl hm
  | _ => rfl

/-- Only the token `WR` sets `WR` (R109). -/
theorem apply_wr (r : Record) {m : Modifier} (hm : m ≠ .wr) : (Modifier.apply r m).wr = r.wr := by
  cases m with
  | wr => exact absurd rfl hm
  | _ => rfl

/-- A part of the record that every token of a list keeps, the list keeps. -/
theorem foldl_apply_keeps {α : Type} {part : Record → α} {ms : List Modifier}
    (h : ∀ r, ∀ m ∈ ms, part (Modifier.apply r m) = part r) (r : Record) :
    part (ms.foldl Modifier.apply r) = part r := by
  induction ms generalizing r with
  | nil => rfl
  | cons m ms ih =>
    rw [List.foldl_cons, ih (fun r m' hm' => h r m' (List.mem_cons_of_mem m hm')), h r m List.mem_cons_self]

theorem foldl_apply_sh_ne_three (ms : List Modifier) {r : Record} (hr : r.sh ≠ 3#2) :
    (ms.foldl Modifier.apply r).sh ≠ 3#2 := by
  induction ms generalizing r with
  | nil => exact hr
  | cons m ms ih => exact ih (apply_sh_ne_three hr m)

theorem foldl_apply_rd {ms : List Modifier} (h : Modifier.rd ∉ ms) (r : Record) :
    (ms.foldl Modifier.apply r).rd = r.rd :=
  foldl_apply_keeps (part := Record.rd) (fun r _ hm => apply_rd r (ne_of_mem_of_not_mem hm h)) r

theorem foldl_apply_wr {ms : List Modifier} (h : Modifier.wr ∉ ms) (r : Record) :
    (ms.foldl Modifier.apply r).wr = r.wr :=
  foldl_apply_keeps (part := Record.wr) (fun r _ hm => apply_wr r (ne_of_mem_of_not_mem hm h)) r

/-- A record with a legal `SH` and not both `RD` and `WR` is a datapath microinstruction's (R98). -/
theorem exists_toInstr_eq_datapath {r : Record} (hsh : r.sh ≠ 3#2) (hmem : r.rd = 0#1 ∨ r.wr = 0#1) :
    ∃ sh q, r.toInstr = .datapath (AluOp.ofBits r.alu) sh q r.fields := by
  obtain ⟨m, hm⟩ := (sh_eq_three_or_mode r.sh).resolve_left hsh
  have hnotHalt : ¬ (r.rd = 1#1 ∧ r.wr = 1#1) := by
    rintro ⟨hrd, hwr⟩
    rw [hrd, hwr] at hmem
    exact absurd hmem (by decide)
  obtain ⟨q, hq⟩ := (rd_wr_eq_halt_or_memReq r.rd r.wr).resolve_left hnotHalt
  exact ⟨m, q, (congrArg Record.toInstr (toRecord_datapath_of_record hm hq)).symm.trans (toInstr_toRecord _)⟩

/-- Settles O53: the tokens leave `ALU` as the operation set it and `SH` legal, and without both `RD` and `WR` among
them one of the two bits stays 0. -/
theorem notationGivesItsOperation : Obligations.NotationGivesItsOperation := by
  intro op ms i h
  unfold assembleDatapath at h
  split_ifs at h with hvalid
  obtain ⟨-, hnotBoth⟩ := hvalid
  obtain rfl := Option.some.inj h
  have halu := foldl_apply_keeps (part := Record.alu) (ms := ms) (fun r m _ => apply_alu r m)
    { Record.zero with alu := op.toBits }
  have hmem := (not_and_or.1 hnotBoth).imp (fun hrd => foldl_apply_rd hrd { Record.zero with alu := op.toBits })
    (fun hwr => foldl_apply_wr hwr { Record.zero with alu := op.toBits })
  have hzero : Record.zero.sh ≠ 3#2 := by decide
  have hsh := foldl_apply_sh_ne_three ms (r := { Record.zero with alu := op.toBits }) hzero
  obtain ⟨sh, q, hdatapath⟩ := exists_toInstr_eq_datapath hsh hmem
  rw [halu, AluOp.ofBits_toBits] at hdatapath
  rw [hdatapath]
  exact ⟨wellFormed_datapath op sh q _, sh, q, _, rfl⟩

end Sys2Proof.Machine
